-- ==== Sys2Proof/Word.lean ====
section
/-! DEFINITION. The words of the QT9 and the plainest arithmetic on them (R4, R5, R15). -/

namespace Sys2Proof

/-- One byte. -/
abbrev Byte := BitVec 8

/-- A 64-bit register (R4). -/
abbrev W64 := BitVec 64

/-- A 96-bit tally word (R232). -/
abbrev Tally := BitVec 96

/-- A 128-bit Rind bundle, bit 127 the top bit of FMT (R170). -/
abbrev Bundle := BitVec 128

/-- A 128-bit order key (R70). -/
abbrev Key := BitVec 128

/-- An engine, numbered 18 * vat + slot as R366 numbers it. -/
abbrev EngId := Fin 1152

/-- A vat (R15). -/
abbrev VatId := Fin 64

/-- Sparse bytes by address, addresses strictly rising. -/
abbrev Bytes := List Host.Cell

/-- The vat of an engine (R366). -/
def EngId.vat (e : EngId) : VatId := ⟨e.val / 18, by omega⟩

/-- The slot of an engine in its vat (R155, R366). -/
def EngId.slot (e : EngId) : Fin 18 := ⟨e.val % 18, by omega⟩

/-- The engine of a vat's slot (R366). -/
def engAt (v : VatId) (k : Fin 18) : EngId := ⟨18 * v.val + k.val, by omega⟩

end Sys2Proof
end

