-- ==== Sys2Proof/Syntax.lean ====
section
/-! DEFINITION. The commands the QT9 takes: one constructor for each row of spec/opcode_table.json, and the
operands they carry. An operand is what the step needs from outside the device: the bundle an instruction fetch
delivered, an ECC outcome, data a DMA read returned, a sensor reading. -/

namespace Sys2Proof

/-- The units that are in error in a line (R526): of an HBM3 line the symbols of its two half-lines; of a DDR5 line, in either
list, the x4 devices or the halves of x8 devices. -/
structure Ecc where
  lo : List Nat := []
  hi : List Nat := []
  deriving DecidableEq, Repr

/-- What memory and the engine's arrays do in this step: whether a load misses L1 (R355), the physical lines that hold errors
and what their ECC finds (R526, R529), and a parity error found in an array or microword (R394). -/
structure Env where
  miss : Bool := false
  errs : List (Nat × Ecc) := []
  parity : Option Nat := none
  deriving DecidableEq, Repr

/-- Who accesses a register: the control processor or the host (R507). -/
inductive Who where
  | viari | host
  deriving DecidableEq, Repr

/-- A window of Vat Control Space (R506). -/
inductive Window where
  | unicast (v : VatId)
  | group (g : Fin 16)
  | broadcast
  deriving DecidableEq, Repr

/-- Where a register write goes: a function's BAR0, the host's BAR2 window, a BAR4 vector control word, NumVFs with
VF Enable in configuration space, or a device space write of Viari (R418-R421, R436). -/
inductive RegTarget where
  | bar0 (fn : Fin 8) (off : Nat)
  | bar2 (addr : Nat)
  | bar4 (fn : Fin 8) (off : Nat)
  | numVfs
  | msixCtl (fn : Fin 8)
  | viari (addr : Nat)
  deriving DecidableEq, Repr

/-- The Ethernet, IP and UDP source addresses of a frame (R486). -/
structure Addr where
  eth : Nat
  ip : Nat
  udp : Nat
  deriving DecidableEq, Repr

/-- A frame as its port unit's MAC received it (R472, R480, R482): the outcome of the FCS, length and checksum checks,
the destination fields, whether it is an IP fragment, the source, the turn and tick of its last byte (none while no
tick is issued), the UDP payload with the UDP length, and the IP version. -/
structure RxFrame where
  fcsOk : Bool
  size : Nat
  vlan : Nat
  fragment : Bool
  dstIp : Nat
  dstUdp : Nat
  csumOk : Bool
  src : Addr
  turn : Option Nat
  tick : Nat
  udpLen : Nat
  payload : List Byte
  ipver : Nat := 4
  deriving DecidableEq, Repr

/-- The data set of an Announce message in the order of the default best master clock algorithm (R499): priority 1, clock
class, accuracy, variance, priority 2, grandmaster identity, steps removed. -/
structure PtpData where
  prio1 : Nat
  cls : Nat
  accuracy : Nat
  variance : Nat
  prio2 : Nat
  ident : Nat
  steps : Nat
  deriving DecidableEq, Repr

/-- A PTP message (R47, R498, R499): its domain, whether it came directly over Ethernet, the sender's port identity, the
sequence number, whether a Sync is two-step, the timestamp and the correction it carries in ns, the PTP time counter as it
passed the timestamp point, the interval that Delay_Resp gives, the data set of an Announce, and the senders whose Announce
messages have stopped for the receipt timeout. -/
structure PtpMsg where
  domain : Nat
  layer2 : Bool
  sender : Nat
  seq : Nat := 0
  twoStep : Bool := false
  origin : Int := 0
  corr : Int := 0
  stamp : Int := 0
  interval : Int := 0
  data : PtpData := ⟨0, 0, 0, 0, 0, 0, 0⟩
  gone : List Nat := []
  deriving DecidableEq, Repr

/-- What a DMA read of a command's input buffer returned; none when it failed (R445 DMA_READ). -/
abbrev DmaIn := Option (List Byte)

/-- How many bytes of an output buffer were written before a failure; none when all were (R445 DMA_WRITE). -/
abbrev DmaOut := Option Nat

/-- The outcome of a command that reads memory and sends it to the host: of its DMA writes, and of the memory. -/
structure ReadOut where
  dma : DmaOut
  env : Env := {}
  deriving DecidableEq, Repr

/-- FW_VERIFY's slot, and whether the flash write that marks the bank valid succeeds (R453). -/
structure VerifyOut where
  slot : Fin 16
  flash : Bool := true
  deriving DecidableEq, Repr

/-- The receivers at which the strobe of a tick comes badly (R53, R54): those that find a parity error in it, and those that
miss it. -/
structure Strobe where
  bad : List Nat := []
  missed : List Nat := []
  deriving DecidableEq, Repr

/-- What an engine slice finds (R582, R585, R586): the MISRs read, and whether every word of patch RAM was read as it was
written. -/
structure SliceResult where
  misr : W64
  patchOk : Bool
  deriving DecidableEq, Repr

/-- What the test of a vat store or of one direction of a link finds (R582, R587, R588): the MISRs read, and the lines or wires
that fail when they differ from the signature. -/
structure TestResult where
  misr : W64
  fails : List Nat := []
  deriving DecidableEq, Repr

/-- A vat's sensors at a retarget (R544, R545, R550). -/
structure VatReading where
  margin : Nat
  celsius : Nat
  deriving DecidableEq, Repr

/-- A SerDes link (R553). -/
inductive SerdesLink where
  | pcie
  | eth (port : Fin 4) (sub : Fin 4)
  deriving DecidableEq, Repr

/-- What a cold boot finds (R578 steps 1 to 4, R597, R617): the straps, the PUF's answer, and whether the tag of the vault
store's entry KO, and that of LKR, fails. -/
structure PowerOn where
  straps : BitVec 5
  puf : Option Nat
  koBad : Bool := false
  lkrBad : Bool := false
  deriving DecidableEq, Repr

/-- What Prime finds (R521, R530, R578, R581): the stacks that failed training, the DIMMs (for each channel
those in its slots: GiB, ranks, and the code of width and density), channels that failed training, and the power-on
self-test: the MISRs read of engines, those and the failing wires of both directions of links, and those and the failing lines
of regions of vat stores. What is not listed passed. -/
structure PrimeResult where
  hbmFail : List (Fin 4)
  dimms : List (List (Nat × Nat × Nat))
  ddrFail : List (Fin 8)
  slots : List (EngId × W64)
  links : List (Fin 112 × TestResult × TestResult)
  stores : List (VatId × Fin 64 × TestResult)
  deriving DecidableEq, Repr

/-- What a warm reset finds when Prime reads its retained record: whether the record's CRC still matches (R566). -/
structure WarmResult where
  recordOk : Bool
  deriving DecidableEq, Repr

/-- The two SMBus ports (R611, R623). -/
inductive SmbPort where
  | sb | mg
  deriving DecidableEq, Repr


/-- The commands of spec/opcode_table.json, one constructor a row. -/
inductive Instr where
  /-- BUNDLE_MOVE (R180): A Rind bundle issues and its plain moves into tally, guard, palette and operand ports take effect as one step. -/
  | bundleMove (e : EngId) (b : Bundle) (v : Env)
  /-- CR_WRITE (R166): A move to a control register writes it at once, or makes the value pending until the next synchronising event for a synchronising register. -/
  | crWrite (e : EngId) (b : Bundle) (v : Env)
  /-- ALU_ADD (R187): ALU trigger add computes o + t modulo 2^64. -/
  | aluAdd (e : EngId) (b : Bundle) (v : Env)
  /-- ALU_SUB (R187): ALU trigger sub computes o - t modulo 2^64. -/
  | aluSub (e : EngId) (b : Bundle) (v : Env)
  /-- ALU_AND (R187): ALU trigger and computes the bitwise AND of o and t. -/
  | aluAnd (e : EngId) (b : Bundle) (v : Env)
  /-- ALU_OR (R187): ALU trigger or computes the bitwise OR of o and t. -/
  | aluOr (e : EngId) (b : Bundle) (v : Env)
  /-- ALU_XOR (R187): ALU trigger xor computes the bitwise XOR of o and t. -/
  | aluXor (e : EngId) (b : Bundle) (v : Env)
  /-- ALU_SHL (R187): ALU trigger shl shifts o left by t[5:0] places. -/
  | aluShl (e : EngId) (b : Bundle) (v : Env)
  /-- ALU_SHR (R187): ALU trigger shr shifts o right logically by t[5:0] places. -/
  | aluShr (e : EngId) (b : Bundle) (v : Env)
  /-- ALU_SAR (R187): ALU trigger sar shifts o right arithmetically by t[5:0] places. -/
  | aluSar (e : EngId) (b : Bundle) (v : Env)
  /-- ALU_MUL (R187): ALU trigger mul gives the low 64 bits of o times t. -/
  | aluMul (e : EngId) (b : Bundle) (v : Env)
  /-- ALU_CEQ (R187): ALU trigger ceq writes 1 when o equals t, and may also write a guard. -/
  | aluCeq (e : EngId) (b : Bundle) (v : Env)
  /-- ALU_CLT (R187): ALU trigger clt writes 1 when o is less than t, signed, and may also write a guard. -/
  | aluClt (e : EngId) (b : Bundle) (v : Env)
  /-- ALU_CLTU (R187): ALU trigger cltu writes 1 when o is less than t, unsigned, and may also write a guard. -/
  | aluCltu (e : EngId) (b : Bundle) (v : Env)
  /-- DA_ADD (R241): Decimal adder add forms o + t as a tally of N digits. -/
  | daAdd (e : EngId) (b : Bundle) (v : Env)
  /-- DA_SUB (R241): Decimal adder sub forms o - t as a tally of N digits. -/
  | daSub (e : EngId) (b : Bundle) (v : Env)
  /-- DA_CMP (R241): Decimal adder cmp compares o with t by value under COND. -/
  | daCmp (e : EngId) (b : Bundle) (v : Env)
  /-- DA_SRND (R241): Decimal adder srnd scales t by 10^SC and rounds by RM. -/
  | daSrnd (e : EngId) (b : Bundle) (v : Env)
  /-- DA_NEG (R241): Decimal adder neg negates t. -/
  | daNeg (e : EngId) (b : Bundle) (v : Env)
  /-- DA_ABS (R241): Decimal adder abs gives the magnitude of t. -/
  | daAbs (e : EngId) (b : Bundle) (v : Env)
  /-- DA_TEST (R241): Decimal adder test evaluates COND on t. -/
  | daTest (e : EngId) (b : Bundle) (v : Env)
  /-- DM_MUL (R243): Decimal multiplier forms the exact product o times t, scaled and rounded, into MP0 and MP1. -/
  | dmMul (e : EngId) (b : Bundle) (v : Env)
  /-- DD_DIV (R244): Decimal divider starts dividing o times 10^S by t into DQ and DRM. -/
  | ddDiv (e : EngId) (b : Bundle) (v : Env)
  /-- DD_DIV_COMPLETE (R245): A busy decimal divide completes and delivers DQ and DRM, or its condition. -/
  | ddDivComplete (e : EngId) (v : Env)
  /-- DF_ADD (R265): DF add computes o + t in decimal64 or decimal128. -/
  | dfAdd (e : EngId) (b : Bundle) (v : Env)
  /-- DF_SUB (R265): DF sub computes o - t. -/
  | dfSub (e : EngId) (b : Bundle) (v : Env)
  /-- DF_MUL (R265): DF mul computes o times t. -/
  | dfMul (e : EngId) (b : Bundle) (v : Env)
  /-- DF_DIV (R278): DF div starts a Rennet-sequenced decimal floating-point divide of o by t. -/
  | dfDiv (e : EngId) (b : Bundle) (v : Env)
  /-- DF_DIV_COMPLETE (R278): A busy DF divide completes and delivers its result and flags. -/
  | dfDivComplete (e : EngId) (v : Env)
  /-- DF_FMA (R265): DF fma computes o times t + o2 with one rounding. -/
  | dfFma (e : EngId) (b : Bundle) (v : Env)
  /-- DF_CMP (R267): DF cmp compares o with t under COND, quietly. -/
  | dfCmp (e : EngId) (b : Bundle) (v : Env)
  /-- DF_CMPS (R267): DF cmps compares o with t under COND, signalling on NaNs. -/
  | dfCmps (e : EngId) (b : Bundle) (v : Env)
  /-- DF_QUANT (R266): DF quant gives o with the exponent of t, rounded by RD. -/
  | dfQuant (e : EngId) (b : Bundle) (v : Env)
  /-- DF_RINT (R265): DF rint rounds t to an integer by RD. -/
  | dfRint (e : EngId) (b : Bundle) (v : Env)
  /-- DF_SCALEB (R265): DF scaleb multiplies t by 10^n. -/
  | dfScaleb (e : EngId) (b : Bundle) (v : Env)
  /-- DF_MIN (R267): DF min returns minNum of o and t. -/
  | dfMin (e : EngId) (b : Bundle) (v : Env)
  /-- DF_MAX (R267): DF max returns maxNum of o and t. -/
  | dfMax (e : EngId) (b : Bundle) (v : Env)
  /-- DF_WIDEN (R265): DF widen converts decimal64 t to decimal128 exactly. -/
  | dfWiden (e : EngId) (b : Bundle) (v : Env)
  /-- DF_NARROW (R265): DF narrow converts decimal128 t to decimal64, rounded by RD. -/
  | dfNarrow (e : EngId) (b : Bundle) (v : Env)
  /-- CV_B2D (R247): CV b2d converts a binary integer to a tally word. -/
  | cvB2d (e : EngId) (b : Bundle) (v : Env)
  /-- CV_D2B (R247): CV d2b converts a tally word to a 64-bit binary integer. -/
  | cvD2b (e : EngId) (b : Bundle) (v : Env)
  /-- CV_T2F (R247): CV t2f converts a scaled tally word to decimal64 or decimal128. -/
  | cvT2f (e : EngId) (b : Bundle) (v : Env)
  /-- CV_F2T (R247): CV f2t converts a decimal floating-point value to a scaled tally word. -/
  | cvF2t (e : EngId) (b : Bundle) (v : Env)
  /-- CV_PACK (R249): CV pack converts a zoned field in memory to a packed field. -/
  | cvPack (e : EngId) (b : Bundle) (v : Env)
  /-- CV_UNPK (R249): CV unpk converts a packed field in memory to a zoned field. -/
  | cvUnpk (e : EngId) (b : Bundle) (v : Env)
  /-- CV_MDEC (R249): CV mdec moves, adds, subtracts or compares packed fields in memory. -/
  | cvMdec (e : EngId) (b : Bundle) (v : Env)
  /-- CK_GS1 (R250): CK gs1 computes or verifies a GS1 mod 10 check digit. -/
  | ckGs1 (e : EngId) (b : Bundle) (v : Env)
  /-- CK_LUHN (R250): CK luhn computes or verifies a Luhn check digit. -/
  | ckLuhn (e : EngId) (b : Bundle) (v : Env)
  /-- CK_M97 (R250): CK m97 computes or verifies an ISO 7064 MOD 97-10 check. -/
  | ckM97 (e : EngId) (b : Bundle) (v : Env)
  /-- ST_MOVE (R285): ST move starts or resumes a byte-string copy. -/
  | stMove (e : EngId) (b : Bundle) (v : Env)
  /-- ST_CMP (R285): ST cmp starts or resumes a byte-string comparison. -/
  | stCmp (e : EngId) (b : Bundle) (v : Env)
  /-- ST_SCAN (R285): ST scan starts or resumes a search for a byte equal or unequal to ARG. -/
  | stScan (e : EngId) (b : Bundle) (v : Env)
  /-- ST_XLAT (R285): ST xlat starts or resumes a byte translation through a 256-byte table. -/
  | stXlat (e : EngId) (b : Bundle) (v : Env)
  /-- ST_FILL (R285): ST fill starts or resumes filling a destination with ARG. -/
  | stFill (e : EngId) (b : Bundle) (v : Env)
  /-- ED_EDIT (R297): ED edit starts or resumes editing a packed source into text through a stencil. -/
  | edEdit (e : EngId) (b : Bundle) (v : Env)
  /-- STRING_ITERATION (R287): One iteration of a Rennet-sequenced string-class operation completes, after which an interrupt may be taken or the operation ends. -/
  | stringIteration (e : EngId) (v : Env)
  /-- LS_LDB (R188): LS ldb loads 1 byte. -/
  | lsLdb (e : EngId) (b : Bundle) (v : Env)
  /-- LS_LDH (R188): LS ldh loads 2 bytes. -/
  | lsLdh (e : EngId) (b : Bundle) (v : Env)
  /-- LS_LDW (R188): LS ldw loads 4 bytes. -/
  | lsLdw (e : EngId) (b : Bundle) (v : Env)
  /-- LS_LDD (R188): LS ldd loads 8 bytes. -/
  | lsLdd (e : EngId) (b : Bundle) (v : Env)
  /-- LS_LDT (R188): LS ldt loads a 12-byte tally word. -/
  | lsLdt (e : EngId) (b : Bundle) (v : Env)
  /-- LS_STB (R188): LS stb stores 1 byte. -/
  | lsStb (e : EngId) (b : Bundle) (v : Env)
  /-- LS_STH (R188): LS sth stores 2 bytes. -/
  | lsSth (e : EngId) (b : Bundle) (v : Env)
  /-- LS_STW (R188): LS stw stores 4 bytes. -/
  | lsStw (e : EngId) (b : Bundle) (v : Env)
  /-- LS_STD (R188): LS std stores 8 bytes. -/
  | lsStd (e : EngId) (b : Bundle) (v : Env)
  /-- LS_STT (R188): LS stt stores a 12-byte tally word. -/
  | lsStt (e : EngId) (b : Bundle) (v : Env)
  /-- BR_JMP (R193): BR jmp branches after its delay bundle, relatively or absolutely. -/
  | brJmp (e : EngId) (b : Bundle) (v : Env)
  /-- BR_CALL (R194): BR call pushes a return record and branches after its delay bundle. -/
  | brCall (e : EngId) (b : Bundle) (v : Env)
  /-- BR_RET (R195): BR ret pops a return record and branches after its delay bundle. -/
  | brRet (e : EngId) (b : Bundle) (v : Env)
  /-- BR_JMPF (R193): BR jmpf branches to another bank and offset. -/
  | brJmpf (e : EngId) (b : Bundle) (v : Env)
  /-- BR_CALLF (R194): BR callf pushes a return record and branches to another bank. -/
  | brCallf (e : EngId) (b : Bundle) (v : Env)
  /-- BR_RETX (R382): BR retx reloads state from the TSB and resumes the saved bundle or Curd instruction. -/
  | brRetx (e : EngId) (b : Bundle) (v : Env)
  /-- RP_LOOP (R198): RP loop checks a body of bundles and starts a hardware block repeat. -/
  | rpLoop (e : EngId) (b : Bundle) (v : Env)
  /-- PX_BEGIN (R202): PX begin waits for Intake to dispatch a posting or a peek. -/
  | pxBegin (e : EngId) (b : Bundle) (v : Env)
  /-- PX_PEEK (R202): PX peek waits for Intake to dispatch a peek only. -/
  | pxPeek (e : EngId) (b : Bundle) (v : Env)
  /-- PX_SEAL (R203): PX seal ends an attempt with an outcome and payload and hands it to the Press. -/
  | pxSeal (e : EngId) (b : Bundle) (v : Env)
  /-- PX_YIELD (R203): PX yield abandons a posting attempt and queues it as a solo run. -/
  | pxYield (e : EngId) (b : Bundle) (v : Env)
  /-- SY_SYNC (R205): SY sync waits for earlier operations and applies pending control register values. -/
  | sySync (e : EngId) (b : Bundle) (v : Env)
  /-- SY_SYNCM (R349): SY syncm is a cumulative memory barrier. -/
  | sySyncm (e : EngId) (b : Bundle) (v : Env)
  /-- SY_IFLUSH (R352): SY iflush completes as syncm and invalidates the L1 instruction cache. -/
  | syIflush (e : EngId) (b : Bundle) (v : Env)
  /-- NOP (R216): Curd nop does nothing. -/
  | nop (e : EngId) (v : Env)
  /-- DROP (R216): Curd drop discards the top element. -/
  | drop (e : EngId) (v : Env)
  /-- DUP (R216): Curd dup copies the top element. -/
  | dup (e : EngId) (v : Env)
  /-- SWAP (R216): Curd swap exchanges the top two elements. -/
  | swap (e : EngId) (v : Env)
  /-- OVER (R216): Curd over copies the second element to the top. -/
  | over (e : EngId) (v : Env)
  /-- ROT (R216): Curd rot rotates the third element to the top. -/
  | rot (e : EngId) (v : Env)
  /-- PICK (R216): Curd pick pushes a copy of the element n below the top. -/
  | pick (e : EngId) (i : Byte) (v : Env)
  /-- DEPTH (R216): Curd depth pushes the stack depth. -/
  | depth (e : EngId) (v : Env)
  /-- PUSH_B8 (R216): Curd push.b8 pushes a sign-extended 8-bit immediate. -/
  | pushB8 (e : EngId) (i : Byte) (v : Env)
  /-- PUSH_B32 (R216): Curd push.b32 pushes a sign-extended 32-bit immediate. -/
  | pushB32 (e : EngId) (i : BitVec 32) (v : Env)
  /-- PUSH_D (R216): Curd push.d pushes a 7-digit packed immediate. -/
  | pushD (e : EngId) (i : BitVec 32) (v : Env)
  /-- LIT (R216): Curd lit pushes a 12-byte tally word from the code bank. -/
  | lit (e : EngId) (i : BitVec 16) (v : Env)
  /-- MKVA (R216): Curd mkva forms a virtual address from a palette bank and an offset. -/
  | mkva (e : EngId) (i : Byte) (v : Env)
  /-- LDB (R216): Curd ldb loads 1 byte. -/
  | ldb (e : EngId) (k : Byte) (i : BitVec 16) (v : Env)
  /-- LDH (R216): Curd ldh loads 2 bytes. -/
  | ldh (e : EngId) (k : Byte) (i : BitVec 16) (v : Env)
  /-- LDW (R216): Curd ldw loads 4 bytes. -/
  | ldw (e : EngId) (k : Byte) (i : BitVec 16) (v : Env)
  /-- LDD (R216): Curd ldd loads 8 bytes. -/
  | ldd (e : EngId) (k : Byte) (i : BitVec 16) (v : Env)
  /-- LDT (R216): Curd ldt loads a tally word. -/
  | ldt (e : EngId) (k : Byte) (i : BitVec 16) (v : Env)
  /-- STB (R216): Curd stb stores 1 byte. -/
  | stb (e : EngId) (k : Byte) (i : BitVec 16) (v : Env)
  /-- STH (R216): Curd sth stores 2 bytes. -/
  | sth (e : EngId) (k : Byte) (i : BitVec 16) (v : Env)
  /-- STW (R216): Curd stw stores 4 bytes. -/
  | stw (e : EngId) (k : Byte) (i : BitVec 16) (v : Env)
  /-- STD (R216): Curd std stores 8 bytes. -/
  | std (e : EngId) (k : Byte) (i : BitVec 16) (v : Env)
  /-- STT (R216): Curd stt stores a tally word. -/
  | stt (e : EngId) (k : Byte) (i : BitVec 16) (v : Env)
  /-- LDL (R216): Curd ldl loads a tally word relative to SP. -/
  | ldl (e : EngId) (i : Byte) (v : Env)
  /-- STL (R216): Curd stl stores a tally word relative to SP. -/
  | stl (e : EngId) (i : Byte) (v : Env)
  /-- SPADJ (R216): Curd spadj adjusts SP by 4 times a signed byte. -/
  | spadj (e : EngId) (i : Byte) (v : Env)
  /-- ADD (R216): Curd add performs the ALU add. -/
  | add (e : EngId) (v : Env)
  /-- SUB (R216): Curd sub performs the ALU sub. -/
  | sub (e : EngId) (v : Env)
  /-- AND (R216): Curd and performs the ALU and. -/
  | and (e : EngId) (v : Env)
  /-- OR (R216): Curd or performs the ALU or. -/
  | or (e : EngId) (v : Env)
  /-- XOR (R216): Curd xor performs the ALU xor. -/
  | xor (e : EngId) (v : Env)
  /-- SHL (R216): Curd shl performs the ALU shl. -/
  | shl (e : EngId) (v : Env)
  /-- SHR (R216): Curd shr performs the ALU shr. -/
  | shr (e : EngId) (v : Env)
  /-- SAR (R216): Curd sar performs the ALU sar. -/
  | sar (e : EngId) (v : Env)
  /-- MUL (R216): Curd mul performs the ALU mul. -/
  | mul (e : EngId) (v : Env)
  /-- CEQ (R216): Curd ceq performs the ALU ceq without a guard. -/
  | ceq (e : EngId) (v : Env)
  /-- CLT (R216): Curd clt performs the ALU clt without a guard. -/
  | clt (e : EngId) (v : Env)
  /-- CLTU (R216): Curd cltu performs the ALU cltu without a guard. -/
  | cltu (e : EngId) (v : Env)
  /-- DADD (R216): Curd dadd performs a DA add. -/
  | dadd (e : EngId) (m : BitVec 16) (v : Env)
  /-- DSUB (R216): Curd dsub performs a DA sub. -/
  | dsub (e : EngId) (m : BitVec 16) (v : Env)
  /-- DCMP (R216): Curd dcmp performs a DA cmp. -/
  | dcmp (e : EngId) (m : BitVec 16) (v : Env)
  /-- DSRND (R216): Curd dsrnd performs a DA srnd. -/
  | dsrnd (e : EngId) (m : BitVec 16) (v : Env)
  /-- DNEG (R216): Curd dneg performs a DA neg. -/
  | dneg (e : EngId) (m : BitVec 16) (v : Env)
  /-- DABS (R216): Curd dabs performs a DA abs. -/
  | dabs (e : EngId) (m : BitVec 16) (v : Env)
  /-- DTEST (R216): Curd dtest performs a DA test. -/
  | dtest (e : EngId) (m : BitVec 16) (v : Env)
  /-- DMUL (R216): Curd dmul performs a DM mul and pushes both product halves. -/
  | dmul (e : EngId) (m : BitVec 16) (v : Env)
  /-- DMULL (R216): Curd dmull performs a DM mul and pushes the low half. -/
  | dmull (e : EngId) (m : BitVec 16) (v : Env)
  /-- DDIV (R222): Curd ddiv performs a DD div and pushes quotient and remainder. -/
  | ddiv (e : EngId) (m : BitVec 16) (v : Env)
  /-- DDIVQ (R222): Curd ddivq performs a DD div and pushes the quotient. -/
  | ddivq (e : EngId) (m : BitVec 16) (v : Env)
  /-- B2D (R216): Curd b2d performs CV b2d. -/
  | b2d (e : EngId) (m : BitVec 16) (v : Env)
  /-- D2B (R216): Curd d2b performs CV d2b. -/
  | d2b (e : EngId) (m : BitVec 16) (v : Env)
  /-- T2F (R216): Curd t2f performs CV t2f. -/
  | t2f (e : EngId) (m : BitVec 16) (v : Env)
  /-- F2T (R216): Curd f2t performs CV f2t. -/
  | f2t (e : EngId) (m : BitVec 16) (v : Env)
  /-- PACK (R228): Curd pack loads the string state and performs CV pack. -/
  | pack (e : EngId) (m : BitVec 16) (v : Env)
  /-- UNPK (R228): Curd unpk loads the string state and performs CV unpk. -/
  | unpk (e : EngId) (m : BitVec 16) (v : Env)
  /-- MDEC (R228): Curd mdec loads the string state and performs CV mdec. -/
  | mdec (e : EngId) (m : BitVec 16) (v : Env)
  /-- BR8 (R223): Curd br8 branches by a signed 8-bit displacement. -/
  | br8 (e : EngId) (i : Byte) (v : Env)
  /-- BR (R223): Curd br branches by a signed 16-bit displacement. -/
  | br (e : EngId) (i : BitVec 16) (v : Env)
  /-- BZ (R223): Curd bz pops a value and branches when it is zero. -/
  | bz (e : EngId) (i : BitVec 16) (v : Env)
  /-- BNZ (R223): Curd bnz pops a value and branches when it is not zero. -/
  | bnz (e : EngId) (i : BitVec 16) (v : Env)
  /-- CALL (R224): Curd call pushes a return record and branches. -/
  | call (e : EngId) (i : BitVec 16) (v : Env)
  /-- CALLF (R224): Curd callf pushes a return record and branches to a popped far address. -/
  | callf (e : EngId) (v : Env)
  /-- RET (R224): Curd ret pops a return record and returns. -/
  | ret (e : EngId) (v : Env)
  /-- JMPF (R223): Curd jmpf branches to a popped far address. -/
  | jmpf (e : EngId) (v : Env)
  /-- CALLK (R225): Curd callk enters the kernel at the Kernel Call vector in supervisor Rind. -/
  | callk (e : EngId) (i : Byte) (v : Env)
  /-- RDRND (R216): Curd rdrnd pushes ESW.DRND. -/
  | rdrnd (e : EngId) (v : Env)
  /-- WDRND (R216): Curd wdrnd pops a value into ESW.DRND. -/
  | wdrnd (e : EngId) (v : Env)
  /-- RDFRND (R216): Curd rdfrnd pushes ESW.DFRND. -/
  | rdfrnd (e : EngId) (v : Env)
  /-- WDFRND (R216): Curd wdfrnd pops a value into ESW.DFRND. -/
  | wdfrnd (e : EngId) (v : Env)
  /-- RDFLAG (R216): Curd rdflag pushes AFLAG once earlier decimal operations complete. -/
  | rdflag (e : EngId) (v : Env)
  /-- CLRFLAG (R216): Curd clrflag clears the AFLAG bits set in a popped mask. -/
  | clrflag (e : EngId) (v : Env)
  /-- TURN (R216): Curd turn pushes TNOW.TURN. -/
  | turn (e : EngId) (v : Env)
  /-- DFADD (R220): Curd dfadd performs DF add. -/
  | dfadd (e : EngId) (m : BitVec 16) (v : Env)
  /-- DFSUB (R220): Curd dfsub performs DF sub. -/
  | dfsub (e : EngId) (m : BitVec 16) (v : Env)
  /-- DFMUL (R220): Curd dfmul performs DF mul. -/
  | dfmul (e : EngId) (m : BitVec 16) (v : Env)
  /-- DFDIV (R220): Curd dfdiv performs DF div. -/
  | dfdiv (e : EngId) (m : BitVec 16) (v : Env)
  /-- DFFMA (R220): Curd dffma performs DF fma. -/
  | dffma (e : EngId) (m : BitVec 16) (v : Env)
  /-- DFCMP (R220): Curd dfcmp performs DF cmp. -/
  | dfcmp (e : EngId) (m : BitVec 16) (v : Env)
  /-- DFCMPS (R220): Curd dfcmps performs DF cmps. -/
  | dfcmps (e : EngId) (m : BitVec 16) (v : Env)
  /-- DFQUANT (R220): Curd dfquant performs DF quant. -/
  | dfquant (e : EngId) (m : BitVec 16) (v : Env)
  /-- DFRINT (R220): Curd dfrint performs DF rint. -/
  | dfrint (e : EngId) (m : BitVec 16) (v : Env)
  /-- DFSCALEB (R220): Curd dfscaleb performs DF scaleb. -/
  | dfscaleb (e : EngId) (m : BitVec 16) (v : Env)
  /-- DFMIN (R220): Curd dfmin performs DF min. -/
  | dfmin (e : EngId) (m : BitVec 16) (v : Env)
  /-- DFMAX (R220): Curd dfmax performs DF max. -/
  | dfmax (e : EngId) (m : BitVec 16) (v : Env)
  /-- DFWIDEN (R220): Curd dfwiden performs DF widen. -/
  | dfwiden (e : EngId) (m : BitVec 16) (v : Env)
  /-- DFNARROW (R220): Curd dfnarrow performs DF narrow. -/
  | dfnarrow (e : EngId) (m : BitVec 16) (v : Env)
  /-- GS1 (R216): Curd gs1 performs CK gs1. -/
  | gs1 (e : EngId) (m : BitVec 16) (v : Env)
  /-- LUHN (R216): Curd luhn performs CK luhn. -/
  | luhn (e : EngId) (m : BitVec 16) (v : Env)
  /-- M97 (R216): Curd m97 performs CK m97. -/
  | m97 (e : EngId) (m : BitVec 16) (v : Env)
  /-- MOVE (R228): Curd move loads the string state and performs ST move. -/
  | move (e : EngId) (m : BitVec 16) (v : Env)
  /-- SCMP (R228): Curd scmp loads the string state and performs ST cmp. -/
  | scmp (e : EngId) (m : BitVec 16) (v : Env)
  /-- SCAN (R228): Curd scan loads the string state and performs ST scan. -/
  | scan (e : EngId) (m : BitVec 16) (v : Env)
  /-- XLAT (R228): Curd xlat loads the string state and performs ST xlat. -/
  | xlat (e : EngId) (m : BitVec 16) (v : Env)
  /-- FILL (R228): Curd fill loads the string state and performs ST fill. -/
  | fill (e : EngId) (m : BitVec 16) (v : Env)
  /-- EDIT (R228): Curd edit loads the string state and performs ED edit. -/
  | edit (e : EngId) (m : BitVec 16) (v : Env)
  /-- REP (R230): Curd rep pops a count and runs the following string-class instruction that many times. -/
  | rep (e : EngId) (op : Byte) (m : BitVec 16) (v : Env)
  /-- INTERRUPT_ENTRY (R391): A pending, unmasked Tick Timer or Vat Signal interrupt is taken at a boundary. -/
  | interruptEntry (e : EngId)
  /-- STORE_WRITE_ERROR (R394): An uncorrectable error writing a store-buffer entry raises an asynchronous machine check. -/
  | storeWriteError (e : EngId)
  /-- BUNDLE_LIMIT (R79): The bundle count of an attempt reaches 2^BLIMIT and the attempt ends with LIMIT. -/
  | bundleLimit (e : EngId)
  /-- TICK_TIMER_EXPIRY (R67): An armed engine tick timer reaches TKCMP, sets PEND and requests the Tick Timer interrupt. -/
  | tickTimerExpiry (e : EngId)
  /-- TICK (R41): The Turner begins a tick and sends the tick strobe to every receiver. -/
  | tick (bad : Strobe)
  /-- CHECK_WORD (R53): Every 256 ticks a check word is compared by each Turner receiver. -/
  | checkWord (bad : List Nat)
  /-- RELEASE_POINT (R95): At tick 0 the Press releases a batch, RESULTs leave and held peeks are dispatched. -/
  | releasePoint
  /-- INTAKE_CLOSE (R40): The end of tick 65,535 closes intake for the turn. -/
  | intakeClose
  /-- BATCH_MEMBERSHIP_FINAL (R480): 2 µs after intake close the membership of the batch becomes final and dispatch may begin. -/
  | batchMembershipFinal
  /-- COMMIT_DEADLINE (R74): The end of tick 65,519 is the commit deadline of the previous batch. -/
  | commitDeadline
  /-- SLIPPED_RELEASE (R101): A late batch is released at the first multiple-of-16 tick at least 16 ticks after its last commit or wait. -/
  | slippedRelease
  /-- TURN_IN_EDGE (R50): A detected rising edge of TURN_IN is accepted early, on time or late, or ignored. -/
  | turnInEdge (cycle : Nat)
  /-- PPS_IN_EDGE (R46): A PPS_IN rising edge disciplines the turn generator. -/
  | ppsInEdge (err : Int)
  /-- TURN_SOURCE_LOST (R57): The turn source times out and the Turner enters holdover. -/
  | turnSourceLost
  /-- TURN_SOURCE_RESTORED (R59): The turn source returns and the Turner leaves holdover and re-locks. -/
  | turnSourceRestored
  /-- HOLD_TURNS_REACHED (R58): HOLD_COUNT reaches HOLD_TURNS and Viari enters Drain when HOLD_ACT is 0b01. -/
  | holdTurnsReached
  /-- REF10M_OUT_OF_TOLERANCE (R56): REF10M_IN stops or strays and the generator switches to SYSCLK, returning after 16 s in tolerance. -/
  | ref10mOutOfTolerance (bad : Bool)
  /-- TURN_NUMBER_LIMIT (R65): The turn number nears the top of its range and Viari enters Drain, or Safe Hold. -/
  | turnNumberLimit
  /-- POST (R482): A received POST frame is decided and admitted, answered or dropped. -/
  | post (port : Fin 4) (sub : Fin 4) (f : RxFrame)
  /-- PEEK (R482): A received PEEK frame is decided and admitted, answered or dropped. -/
  | peek (port : Fin 4) (sub : Fin 4) (f : RxFrame)
  /-- HELLO (R482): A received HELLO frame is authenticated and answered with an ACK. -/
  | hello (port : Fin 4) (sub : Fin 4) (f : RxFrame)
  /-- ARP_REQUEST (R472): An ARP request for the sub-port address is answered. -/
  | arpRequest (port : Fin 4) (sub : Fin 4) (target : Nat) (src : Addr)
  /-- NEIGHBOR_SOLICITATION (R472): A Neighbor Solicitation for the sub-port address is answered. -/
  | neighborSolicitation (port : Fin 4) (sub : Fin 4) (target : Nat) (src : Addr)
  /-- SYNC (R499): A PTP Sync message is timestamped and followed by the servo. -/
  | sync (port : Fin 4) (sub : Fin 4) (g : PtpMsg)
  /-- FOLLOW_UP (R499): A PTP Follow_Up message is taken by the servo. -/
  | followUp (port : Fin 4) (sub : Fin 4) (g : PtpMsg)
  /-- DELAY_RESP (R499): A PTP Delay_Resp message is taken by the servo. -/
  | delayResp (port : Fin 4) (sub : Fin 4) (g : PtpMsg)
  /-- ANNOUNCE (R499): A PTP Announce message is considered by the best master clock algorithm. -/
  | announce (port : Fin 4) (sub : Fin 4) (g : PtpMsg)
  /-- DELAY_REQ (R499): The servo sends a Delay_Req at its interval. -/
  | delayReq
  /-- FRAME_TRANSMIT (R495): A sub-port begins transmitting the next queued frame by precedence. -/
  | frameTransmit (port : Fin 4) (sub : Fin 4)
  /-- DISPATCH (R493): Intake dispatches a frame to a waiting engine and an attempt begins. -/
  | dispatch (e : EngId) (key : Key)
  /-- SEAL_ACKNOWLEDGED (R121): Every home slice acknowledges a seal and the whey buffer is freed. -/
  | sealAcknowledged (key : Key)
  /-- COMMIT (R80): The Press commits the head transaction once its reads are valid and earlier keys have committed. -/
  | commit (v : Env)
  /-- SOLO_RUN_START (R85): A queued solo run begins once every earlier-keyed transaction has committed. -/
  | soloRunStart (e : EngId) (key : Key)
  /-- RELEASE_MARK (R134): After write-back of a batch a slice writes its release mark and the batch becomes durable. -/
  | releaseMark (w : VatId)
  /-- PLACEMENT_SELECTION (R129): At a placement point the placement loop selects and starts wheel moves. -/
  | placementSelection
  /-- WHEEL_MOVE_COMPLETE (R131): A wheel move finishes write-back, hands over and switches the home map. -/
  | wheelMoveComplete (wheel : Nat)
  /-- MBX_DOORBELL (R426): A doorbell with GO at 1 captures the mailbox command or is ignored. -/
  | mbxDoorbell (fn : Fin 8) (m : Fin 64) (w : W64)
  /-- SQ_PI_WRITE (R437): A host write of SQ_PI hands command slots to the device. -/
  | sqPiWrite (fn : Fin 8) (ring : Fin 8) (w : W64)
  /-- COMMAND_FETCH (R430): The device fetches a ring command by DMA read. -/
  | commandFetch (fn : Fin 8) (ring : Fin 8) (data : Option (List Byte))
  /-- COMMAND_START (R438): Viari gives a free slot to a startable command and checks it. -/
  | commandStart
  /-- RING_ENABLE (R429): A write setting RING_CTL.EN enables a command ring or is refused. -/
  | ringEnable (fn : Fin 8) (ring : Fin 8) (w : W64)
  /-- RING_DISABLE (R432): Writing EN as 0 stops fetching and the ring quiesces. -/
  | ringDisable (fn : Fin 8) (ring : Fin 8) (w : W64)
  /-- CQ_CI_WRITE (R431): A host write of CQ_CI frees completion slots and releases held completions. -/
  | cqCiWrite (fn : Fin 8) (ring : Fin 8) (w : W64)
  /-- COALESCING_TIMER (R433): The coalescing timer expires and an MSI-X message announces completions. -/
  | coalescingTimer (fn : Fin 8) (ring : Fin 8)
  /-- EVQ_ENABLE (R434): A write setting EVQ_CTL.EN enables the event ring or is refused. -/
  | evqEnable (fn : Fin 8) (w : W64)
  /-- MSIX_UNMASK (R436): Unmasking a vector sends its pending message. -/
  | msixUnmask (fn : Fin 8) (vec : Fin 64)
  /-- FUNCTION_LEVEL_RESET (R441): A PCIe FLR resets one function's registers, mailboxes and rings. -/
  | functionLevelReset (fn : Fin 8)
  /-- REGISTER_WRITE (R9): A write to a register with no row of its own takes effect by its field types. -/
  | registerWrite (tgt : RegTarget) (w : W64)
  /-- TLBI_VA (R330): TLBI_CMD OP VA invalidates entries overlapping a SPAN region. -/
  | tlbiVa (vat : VatId) (who : Who) (w : W64)
  /-- TLBI_ROOT (R330): TLBI_CMD OP ROOT invalidates non-global entries of one root. -/
  | tlbiRoot (vat : VatId) (who : Who) (w : W64)
  /-- TLBI_FRAME (R330): TLBI_CMD OP FRAME invalidates entries mapping one frame. -/
  | tlbiFrame (vat : VatId) (who : Who) (w : W64)
  /-- TLBI_ALL (R330): TLBI_CMD OP ALL invalidates every entry. -/
  | tlbiAll (vat : VatId) (who : Who) (w : W64)
  /-- TLBI_COMPLETE (R331): A vat completes an invalidation and clears TLBI_STAT.BUSY. -/
  | tlbiComplete (vat : VatId)
  /-- ENG_SIGNAL (R518): A write of ENG_SIGNAL sets the engine's Vat Signal pending bit. -/
  | engSignal (e : EngId) (who : Who) (w : W64)
  /-- ENGINE_RESET (R574): An engine enters engine reset after its store buffer is written. -/
  | engineReset (e : EngId)
  /-- ENGINE_START (R574): An engine leaves reset and fetches at the Start slot. -/
  | engineStart (e : EngId)
  /-- SRAM_DATA (R511): An SRAM_DATA access reads or writes engine-local SRAM and advances SRAM_ADDR. -/
  | sramData (e : EngId) (w : Option W64)
  /-- RN_PDATA2 (R412): A write of RN_PDATA2 stores a 152-bit patch RAM word and advances RN_PADDR. -/
  | rnPdata2 (e : EngId) (w : W64)
  /-- VCS_GROUP_WRITE (R512): A group or broadcast write reaches every member and completes on their acknowledgements. -/
  | vcsGroupWrite (who : Who) (win : Window) (off : Nat) (w : W64)
  /-- VCS_GROUP_READ (R513): A group or broadcast read returns the members' values reduced by GRPRD.MODE. -/
  | vcsGroupRead (who : Who) (win : Window) (off : Nat)
  /-- DEV_INFO (R444): Returns mode, live engines, firmware and feature information. -/
  | devInfo (k : Fin 16)
  /-- MODE_SET (R450): Requests a permitted device mode change. -/
  | modeSet (k : Fin 16) (zeroed : Bool)
  /-- RESET (R451): Requests a warm, vat or engine reset. -/
  | reset (k : Fin 16)
  /-- CMD_STATUS (R451): Reports the state of an earlier command by TAG and source. -/
  | cmdStatus (k : Fin 16)
  /-- POLICY_WRITE (R452): Writes a timing-only policy register under a mask. -/
  | policyWrite (k : Fin 16)
  /-- POLICY_READ (R452): Reads one device space register. -/
  | policyRead (k : Fin 16)
  /-- FW_STAGE (R453): Writes image bytes into the bank that is not running. -/
  | fwStage (k : Fin 16) (buf : DmaIn) (flash : Bool)
  /-- FW_VERIFY (R453): Verifies the staged image and marks its bank valid. -/
  | fwVerify (k : VerifyOut)
  /-- FW_SELECT (R454): Selects the boot bank, once or lasting. -/
  | fwSelect (k : Fin 16) (flash : Bool)
  /-- FW_INFO (R444): Returns bank and firmware version information. -/
  | fwInfo (k : Fin 16)
  /-- CFG_OPEN (R455): Opens a configuration staging area. -/
  | cfgOpen (k : Fin 16)
  /-- CFG_LOAD (R455): Loads a descriptor table, frames or page table frames into the staging. -/
  | cfgLoad (k : Fin 16) (buf : DmaIn)
  /-- CFG_ROOT (R455): Sets the staged PTROOT, XVEC, TSBR and SCRW. -/
  | cfgRoot (k : Fin 16)
  /-- CFG_ACTIVATE (R456): Checks the staging and installs it as pending with effective turn E. -/
  | cfgActivate (k : Fin 16)
  /-- CFG_ABANDON (R458): Discards the staging. -/
  | cfgAbandon (k : Fin 16)
  /-- CFG_QUERY (R444): Reports configuration versions in force, pending and held. -/
  | cfgQuery (k : Fin 16)
  /-- REGION_SET (R459): Sets the ledger window and places the firmware windows. -/
  | regionSet (k : Fin 16)
  /-- LEDGER_MAP (R459): Writes ledger page table entries under full TLB maintenance. -/
  | ledgerMap (k : Fin 16) (buf : DmaIn)
  /-- LEDGER_LOAD (R459): Writes ledger lines directly and journals a load record. -/
  | ledgerLoad (k : Fin 16) (buf : DmaIn)
  /-- LEDGER_READ (R459): Reads ledger bytes from one released batch. -/
  | ledgerRead (k : Fin 16) (out : DmaOut) (v : Env)
  /-- WHEEL_HOME (R460): Sets home vats and pins of named wheels. -/
  | wheelHome (k : Fin 16) (buf : DmaIn)
  /-- RECIPE_POLICY (R460): Sets the throttle policy of a recipe. -/
  | recipePolicy (k : Fin 16)
  /-- KEY_SET (R461): Sets storage key bytes of frames and invalidates their TLB entries. -/
  | keySet (k : Fin 16)
  /-- TURN_CONFIG (R462): Sets the turn source, period, discipline and first turn. -/
  | turnConfig (k : Fin 16)
  /-- TURN_STEP (R462): Adds Replay step credits. -/
  | turnStep (k : Fin 16)
  /-- TURN_STATUS (R444): Returns the Turner and Press status registers. -/
  | turnStatus (k : Fin 16)
  /-- LANE_WRITE (R488): Writes lane table entries. -/
  | laneWrite (k : Fin 16) (buf : DmaIn)
  /-- LANE_READ (R463): Reads lane table entries. -/
  | laneRead (k : Fin 16) (out : ReadOut)
  /-- LANE_KEYS (R464): Unwraps and installs lane keys. -/
  | laneKeys (k : Fin 16) (buf : DmaIn)
  /-- PORT_CONFIG (R473): Configures an Ethernet port or sub-port. -/
  | portConfig (k : Fin 16)
  /-- JRN_CONFIG (R465): Configures the journal ring. -/
  | jrnConfig (k : Fin 16)
  /-- JRN_ACK (R465): Acknowledges consumed journal bytes and frees room. -/
  | jrnAck (k : Fin 16)
  /-- JRN_READ (R465): Reads journal bytes from a position. -/
  | jrnRead (k : Fin 16) (out : ReadOut)
  /-- RPL_SUPPLY (R466): Supplies Phomberak records for Replay. -/
  | rplSupply (k : Fin 16) (buf : DmaIn)
  /-- RPL_STATUS (R444): Reports Replay progress and divergence. -/
  | rplStatus (k : Fin 16)
  /-- CAVE_READ (R467): Reads cave log records. -/
  | caveRead (k : Fin 16) (out : DmaOut)
  /-- CAVE_FIRST (R609): Reads the first-failure areas. -/
  | caveFirst (k : Fin 16) (out : DmaOut)
  /-- ENGINE_MAP (R594): Maps an engine out or returns it as a spare after a slice. -/
  | engineMap (k : Fin 16) (res : SliceResult)
  /-- SRAM_READ (R467): Reads the engine-local SRAM of a held engine. -/
  | sramRead (k : Fin 16) (out : DmaOut)
  /-- SLICE_NOW (R467): Runs a slice test on a held engine. -/
  | sliceNow (k : Fin 16) (res : SliceResult)
  /-- ATTEST (R601): Writes a signed attestation report. -/
  | attest (k : Fin 16) (out : DmaOut)
  /-- ID_CERT (R598): Returns the device identity certificate. -/
  | idCert (k : Fin 16) (out : DmaOut)
  /-- OWNER_SET (R600): Installs a new owner key and draws a new lane key table root. -/
  | ownerSet (k : Fin 16) (buf : DmaIn)
  /-- JMAC_ROLL (R468): Rolls the journal MAC key from effective turn E. -/
  | jmacRoll (k : Fin 16)
  /-- TESTOPEN_CHAL (R469): Returns a Test-Open challenge. -/
  | testopenChal (k : Fin 16)
  /-- TESTOPEN_AUTH (R469): Checks the owner signature and permits one MODE_SET to Test-Open. -/
  | testopenAuth (k : Fin 16) (buf : DmaIn)
  /-- TESTOPEN_PERMISSION_EXPIRY (R469): The 60 s validity of a challenge or permission expires. -/
  | testopenPermissionExpiry (permission : Bool)
  /-- VCS_READ (R470): Reads a Vat Control Space address with a chosen reduction. -/
  | vcsRead (k : Fin 16)
  /-- VCS_WRITE (R470): Writes a permitted Vat Control Space register. -/
  | vcsWrite (k : Fin 16)
  /-- TLB_INVAL (R470): Carries out TLB invalidation in named vats and waits for completion. -/
  | tlbInval (k : Fin 16) (timedOut : BitVec 64)
  /-- DRAIN_COMPLETE (R561): The last open batch is released and Drain moves to Standby. -/
  | drainComplete
  /-- VF_RETARGET (R545): Each vat's voltage and frequency controller retargets against margin and caps. -/
  | vfRetarget (r : List VatReading) (watts : Nat)
  /-- RAIL_SETTLED (R542): SETTLE_US after a row rail write passes and trims and raises proceed. -/
  | railSettled (row : Fin 8) (margins : List Nat)
  /-- GLIDE_COMPLETE (R537): A vat's clock glide reaches its new frequency. -/
  | glideComplete (vat : VatId)
  /-- DROOP_GUARD (R547): A CPM slack below 2 % drops the vat frequency by DROOP steps. -/
  | droopGuard (vat : VatId)
  /-- POWER_RECALIBRATION (R549): Every 1 ms the power estimate is recalibrated against AVSBus telemetry. -/
  | powerRecalibration (watts : Nat)
  /-- THERMAL_TRIP (R551): A sensor reading of 115 °C lowers every vat and enters Safe Hold. -/
  | thermalTrip (vat : VatId) (celsius : Nat)
  /-- AVSBUS_FAILURE (R543): An AVSBus transaction fails three times and the row is lowered by trim. -/
  | avsbusFailure (rail : Fin 10)
  /-- AVSBUS_RETRY_READ (R543): Every 1 ms after a failure the system agent tries a rail read. -/
  | avsbusRetryRead (rail : Fin 10) (answer : Option Nat)
  /-- SERDES_BACKGROUND_ADAPT (R553): Every PERIOD_MS background adaptation steps equaliser coefficients. -/
  | serdesBackgroundAdapt (optimum : List (List Int))
  /-- LINK_TRAINING (R553): A SerDes link trains and fully adapts its equalisers. -/
  | linkTraining (link : SerdesLink) (coefs : List (List Int))
  /-- TRACKING_WINDOW (R531): A memory controller opens a tracking window and re-centres its interface. -/
  | trackingWindow (mc : Fin 12) (closes : Bool)
  /-- SCRUB (R528): Patrol scrub reads, corrects and writes back a line. -/
  | scrub (mc : Fin 12) (line : Nat) (r : Ecc) (raced : Bool)
  /-- REFRESH (R532): Refresh and ZQ calibration run at DRAM intervals. -/
  | refresh (mc : Fin 12) (hot : Bool)
  /-- ENGINE_SLICE (R585): The engine slice of a vat starts at its scheduled tick. -/
  | engineSlice (vat : VatId)
  /-- ENGINE_DRAIN_COMPLETE (R585): A draining engine ends its attempt or waits and is held for test. -/
  | engineDrainComplete (e : EngId)
  /-- SLICE_DRAIN_TIMEOUT (R585): An engine not held by the end of the turn returns to executing and the slice is deferred. -/
  | sliceDrainTimeout (vat : VatId)
  /-- ENGINE_SLICE_COMPLETE (R585): An engine's LBIST, MBIST and ROM read complete and the engine passes or is mapped out. -/
  | engineSliceComplete (vat : VatId) (res : SliceResult)
  /-- VAT_STORE_SLICE (R587): The vat-store slice starts and evacuates one region. -/
  | vatStoreSlice (vat : VatId)
  /-- VAT_STORE_SLICE_COMPLETE (R587): Region MBIST ends, lines are repaired and the region returns to service. -/
  | vatStoreSliceComplete (vat : VatId) (res : TestResult)
  /-- LINK_SLICE (R588): A mesh link's slice starts and drives PRBS31 on every wire. -/
  | linkSlice (link : Fin 112)
  /-- LINK_SLICE_COMPLETE (R588): After 512 mesh cycles the link is compared and failing wires are spared. -/
  | linkSliceComplete (link : Fin 112) (fwd : TestResult) (bwd : TestResult)
  /-- LINK_CRC_ERROR (R588): A message with a CRC error is repeated and counted. -/
  | linkCrcError (link : Fin 112)
  /-- PWRGOOD_FALL (R567): A filtered PWRGOOD low holds everything outside VDD_AON in reset. -/
  | pwrgoodFall (ns : Nat) (taken : Bool)
  /-- PWRGOOD_RISE (R578): PWRGOOD rises and a cold boot begins in Prime. -/
  | pwrgoodRise (p : PowerOn)
  /-- PRIME_COMPLETE (R578): Training, initialisation, self-test and patch load end and the device enters Control-Only. -/
  | primeComplete (r : PrimeResult)
  /-- RESET_N_LOW (R566): A filtered RESET_N low starts a warm reset. -/
  | resetNLow (ns : Nat) (taken : Bool) (r : WarmResult)
  /-- BOOT_WATCHDOG_EXPIRY (R577): The boot watchdog expires and the bank is failed with a warm reset. -/
  | bootWatchdogExpiry (r : WarmResult)
  /-- PERST_N_FALL (R627): PERST_N low resets the host interface. -/
  | perstNFall
  /-- PERST_N_RISE (R627): PERST_N rises and the functions leave reset and the link trains. -/
  | perstNRise
  /-- VDD_AON_LOW (R630): VDD_AON below 0.70 V holds the vault, cave log and sideband port in reset. -/
  | vddAonLow
  /-- CAVE_SUPPRESSED (R607): At the end of a second a Suppressed record counts rate-limited records. -/
  | caveSuppressed
  /-- SMBUS_STATUS_READ (R611): SMBus code 0x01 returns the next slot, last RSEQ and boot counts. -/
  | smbusStatusRead (port : SmbPort) (pec : Bool)
  /-- SMBUS_RING_POINTER (R611): SMBus code 0x02 sets the ring read pointer. -/
  | smbusRingPointer (port : SmbPort) (pec : Bool) (w : BitVec 16)
  /-- SMBUS_AREA_POINTER (R611): SMBus code 0x03 sets the first-failure area pointer. -/
  | smbusAreaPointer (port : SmbPort) (pec : Bool) (w : BitVec 16)
  /-- SMBUS_RING_READ (R611): SMBus code 0x10 returns 32 ring bytes and advances the pointer. -/
  | smbusRingRead (port : SmbPort) (pec : Bool)
  /-- SMBUS_AREA_READ (R611): SMBus code 0x11 returns 32 area bytes and advances the pointer. -/
  | smbusAreaRead (port : SmbPort) (pec : Bool)
  /-- SMBUS_MODE_READ (R611): SMBus code 0x20 returns the mode and power state. -/
  | smbusModeRead (port : SmbPort) (pec : Bool)
  /-- SMBUS_POWER_STATUS (R623): MG port code 0x30 returns PWR_STATUS. -/
  | smbusPowerStatus (port : SmbPort) (pec : Bool)
  /-- SMBUS_TIMEOUT (R623): A clock-low time-out releases the SMBus. -/
  | smbusTimeout (port : SmbPort)
  /-- TAP_RESET (R625): The TAP resets after five TCK cycles with TMS high and selects IDCODE. -/
  | tapReset
  /-- EXTEST (R625): JTAG EXTEST drives the boundary scan cells where permitted. -/
  | extest (cells : BitVec 1356)
  /-- SAMPLE_PRELOAD (R625): JTAG SAMPLE/PRELOAD samples or preloads the boundary scan register. -/
  | samplePreload (pins : BitVec 1356) (cells : BitVec 1356)
  /-- IDCODE (R625): JTAG IDCODE selects the 32-bit identification register. -/
  | idcode
  /-- CLAMP (R625): JTAG CLAMP holds outputs from the boundary register where permitted. -/
  | clamp (d : Bool)
  /-- HIGHZ (R625): JTAG HIGHZ places outputs in high impedance where permitted. -/
  | highz (d : Bool)
  /-- SCAN_CFG (R625): Private instruction SCAN_CFG selects the scan configuration register in Test-Open. -/
  | scanCfg (testEn : Bool) (d : BitVec 64)
  /-- SCAN_SHIFT (R625): Private instruction SCAN_SHIFT shifts scan chains in Test-Open. -/
  | scanShift (testEn : Bool) (d : BitVec 1024)
  /-- MBIST_ACC (R625): Private instruction MBIST_ACC accesses MBIST in Test-Open. -/
  | mbistAcc (testEn : Bool) (d : BitVec 128)
  /-- CAVE_RD (R612): Private instruction CAVE_RD reads 256 bits of the cave log in Test-Open. -/
  | caveRd (testEn : Bool) (addr : BitVec 16)
  /-- BYPASS (R625): JTAG BYPASS selects the 1-bit bypass register. -/
  | bypass (d : Bool)
  /-- STORE_BUFFER_WRITE (R354): The oldest store-buffer entry is written into the vat store, at most one per cycle, and becomes performed with respect to the engines of the vat. -/
  | storeBufferWrite (e : EngId)
  /-- LOAD_COMPLETE (R355): A load that missed in L1, or stalled behind the store buffer, receives its data and makes its result port ready. -/
  | loadComplete (e : EngId) (port : Fin 2) (v : Env)
  /-- LINK_DOWN (R494): An Ethernet sub-port link goes down, after which RESULTs for it are discarded into TX_LOST until the link retrains. -/
  | linkDown (port : Fin 4) (sub : Fin 4)
  /-- DROPPED_FRAME (R472): A received Ethernet frame that is not a POST, PEEK, HELLO, ARP, Neighbor Solicitation or accepted PTP message is counted and dropped. -/
  | droppedFrame (port : Fin 4) (sub : Fin 4) (overflow : Bool)
  /-- VDD_AON_UP (R628): VDD_AON comes into tolerance, the vault, cave log and sideband port leave reset, the SMBus read pointers become 0 and the sideband port answers 10 ms later. -/
  | vddAonUp
  /-- RESET_N_RISE (R568): RESET_N rises, ending a held warm reset so that Prime begins, or releasing a cold reset that waited for it. -/
  | resetNRise
  /-- DDR_ALERT (R614): DDR_ALERT_N0 or DDR_ALERT_N1 falls and the controllers of that side find the alerting channel over the sideband bus. -/
  | ddrAlert (side : Fin 2) (channel : Fin 4)
  /-- COMMANDED_WARM_RESET (R451): At least 1 ms after a RESET KIND 1 has completed, the warm reset takes effect. -/
  | commandedWarmReset (r : WarmResult)
  /-- FLR_COMPLETE (R441): A function-level reset completes within 100 ms, and the function's BAR writes are no longer discarded. -/
  | flrComplete (fn : Fin 8)
  /-- ILLEGAL_OPCODE (R217): A Curd opcode byte that the opcode table does not list is fetched and raises Illegal Opcode. -/
  | illegalOpcode (e : EngId) (op : Byte) (v : Env)
  deriving DecidableEq, Repr

end Sys2Proof
end

