-- ==== Sys2Proof/WellFormed.lean ====
section
/-! DEFINITION. Which commands the hardware can be given: the bounds of the operands that are written as plain numbers
and lists. Meanings are total, so nothing rests on it but the statements that name it. -/

namespace Sys2Proof

/-- An 8-byte register access within a window of a size (R9, R419, R420). -/
def regOk (off size : Nat) : Bool := decide (off % 8 = 0) && decide (off < size)

/-- What arrays an engine's environment names: lines of the physical address space, and the parity errors of R394. -/
def Env.wf (v : Env) : Bool :=
  (v.errs.all fun a => decide (a.1 < 2 ^ 48)) && v.parity.all fun p => decide (1 ≤ p) && decide (p ≤ 5)

/-- The Ethernet, IP and UDP fields of an address (R472, R486). -/
def Addr.wf (a : Addr) : Bool := decide (a.eth < 2 ^ 48) && decide (a.ip < 2 ^ 128) && decide (a.udp < 2 ^ 16)

/-- A frame: a tick below 65,536, a turn below 2^48, and header fields of their widths (R39, R475, R480). -/
def RxFrame.wf (f : RxFrame) : Bool :=
  f.src.wf && decide (f.tick < 65536) && f.turn.all (fun n => decide (n < 2 ^ 48)) && decide (f.vlan < 4096) &&
    decide (f.dstIp < 2 ^ 128) && decide (f.dstUdp < 2 ^ 16) && decide (f.udpLen < 2 ^ 16) && (f.ipver = 4 || f.ipver = 6)

/-- What Prime finds: eight channels (R521), at most the wires of a link direction and the lines of a vat store. -/
def PrimeResult.wf (p : PrimeResult) : Bool :=
  decide (p.dimms.length = 8) && p.links.all (fun l => (l.2.1.fails ++ l.2.2.fails).all fun w => decide (w < 264)) &&
    p.stores.all fun x => x.2.2.fails.all fun n => decide (n < 32768)

/-- Whether the operands of a command are ones that the hardware can present. -/
def Instr.wf : Instr → Bool
  | .post _ _ f => f.wf
  | .peek _ _ f => f.wf
  | .hello _ _ f => f.wf
  | .tick b => b.bad.all (fun r => decide (r < 80)) && b.missed.all fun r => decide (r < 80)
  | .checkWord bad => bad.all fun r => decide (r < 80)
  | .wheelMoveComplete w => decide (w < 2 ^ 18)
  | .vcsGroupWrite _ _ off _ => regOk off 0x10000
  | .vcsGroupRead _ _ off => regOk off 0x10000
  | .vfRetarget r _ => decide (r.length = 64)
  | .railSettled _ m => decide (m.length = 8)
  | .thermalTrip _ c => decide (c < 256)
  | .avsbusRetryRead _ a => a.all fun mv => decide (mv < 2 ^ 16)
  | .scrub _ line _ _ => decide (line < 2 ^ 42)
  | .vatStoreSliceComplete _ r => r.fails.all fun n => decide (n < 32768)
  | .primeComplete p => p.wf
  | .pwrgoodFall ns _ => decide (0 < ns)
  | .commandFetch _ _ d => d.all fun l => decide (l.length = 64)
  | .arpRequest _ _ t src => decide (t < 2 ^ 32) && src.wf
  | .loadComplete _ _ v => v.wf
  | _ => true

end Sys2Proof
end

