-- ==== Sys2Proof/Decode.lean ====
section
/-! DEFINITION. The words of commands. No row of spec/opcode_table.json gives bits: the QT9 is commanded through its
registers, rings, pins and frames, so no word spells a command. -/

namespace Sys2Proof

/-- The command a word of the table spells: none, since no row has bits. -/
def decodeTableWord (_nbits _w : Nat) : Option Instr := none

end Sys2Proof
end

