-- ==== Sys2Proof/Config.lean ====
section
/-! DEFINITION. What an implementation fixes and what the spec leaves open: constants with no body, so that no proof
can see their values. Each is named in a row of notes/assumptions. -/

namespace Sys2Proof.Config

/-- A value the spec leaves open, applied to the counter `fresh` of the state (log 4): a replacement victim of a TLB
(R317), a nearest engine among equals (R493), the order in which vats answer. -/
opaque freeNat : Nat → Nat

/-- Whether the host refuses the completion write of a command, by the command's number in order of acceptance (R432,
log 4). -/
opaque cqRefused : Nat → Bool

/-- Whether the host refuses the write of an event entry (R434, R435, log 4): by the function, the index and the entry. -/
opaque evqRefused : Nat → Nat → List Byte → Bool

/-- The control bits of the mask ROM of Rennet by microaddress (R404, R406), which the spec leaves to the silicon
(log 19). -/
opaque romBits : Nat → BitVec 144

/-- What a microword puts in the micro-counter (R406, R407, log 19): by its control bits and its literal LIT. -/
opaque microCount : Nat → Nat → Option Nat

/-- The result and the guard that RESULT of a patch RAM word writes at END (R406, R407), by the counter `fresh` and the
word, whose encoding the spec leaves to the patch tools (log 19). -/
opaque microResult : Nat → Nat → BitVec 96 × Bool

/-- The condition that a CJUMP selects (R406, log 19): by the counter `fresh`, the words still to be read, and CSEL. -/
opaque microCond : Nat → Nat → Nat → Bool

/-- A random byte string of the vault's CTR_DRBG (R598), by request number and length (log 5). -/
opaque random : Nat → Nat → List Byte

/-- AES-256-GCM decryption and tag check (R464, R598): key, IV, additional data, ciphertext, tag (log 6). -/
opaque gcmOpen : List Byte → List Byte → List Byte → List Byte → List Byte → Option (List Byte)

/-- AES-256-GCM encryption (R601): key, IV, additional data, plaintext; the ciphertext and the tag (log 6). -/
opaque gcmSeal : List Byte → List Byte → List Byte → List Byte → List Byte × List Byte

/-- ECDSA P-384 verification (R598): public key, message, signature (log 6). -/
opaque ecdsaVerify : List Byte → List Byte → List Byte → Bool

/-- ECDSA P-384 signature under the device identity key (R601): the key's seed, the message (log 6). -/
opaque ecdsaSign : Nat → List Byte → List Byte

/-- The x-coordinate of KID times KO (R596), from which KT is derived (log 6). -/
opaque sharedX : Nat → List Byte → List Byte

/-- The X.509 certificate of KID, at most 2 KiB (R598) (log 6). -/
opaque idCert : Nat → List Byte

/-- FVR, the fused firmware verification root: the SHA-384 of the vendor key (R596) (log 5). -/
opaque fvr : List Byte

/-- Where an image holds its Rennet patch section (R413): offset and length in the image, by the image's bytes; none
when it has no section (log 7). -/
opaque patchSection : List Byte → Option (Nat × Nat)

/-- The Salvage code of an image: the bytes of engine-local SRAM offsets 0x2000 to 0x3FFF (R398) (log 7). -/
opaque salvageCode : List Byte → List Byte

/-- RGN_FWH and RGN_FWD as an image places them in a machine with a DDR5 capacity in GiB (R28, R459) (log 7). -/
opaque fwWindows : List Byte → Nat → W64 × W64

/-- Where the journal ring on the device lies (R28, R465): offset in RGN_FWD and size, by the image (log 7). -/
opaque jrnRing : List Byte → Nat × Nat

/-- Where the commit log lies (R28, R134): offset in RGN_FWD and size, by the image (log 7). -/
opaque clogArea : List Byte → Nat × Nat

/-- The signature that an image carries for a test (R582, log 7): by the image, the kind of test (1 engine, 2 vat store, 3 link)
and the number of the slot, region or link. -/
opaque signature : List Byte → Nat → Nat → W64

/-- Whether an L1 copy of a line is one that a vat-store slice invalidates (R587, log 35): by the counter `fresh` and the line. -/
opaque displaced : Nat → Nat → Bool

/-- A byte of a line with an uncorrectable error as the control processor reads it (R529, log 4): by the counter `fresh` and the
address. -/
opaque poisoned : Nat → Nat → Byte

/-- KP, the PUF root, as the PUF's answer gives it (R596, log 5). -/
opaque pufRoot : Nat → List Byte

/-- What Test-Open scan access captures (R582, R625): by the counter `fresh` and the value shifted in (log 8). -/
opaque scanCapture : Nat → Nat → Nat

/-- The Ethernet address of a sub-port (R472), which the spec does not give (log 11). -/
opaque stationAddr : Nat → Nat

end Sys2Proof.Config
end

