-- ==== Sys2Proof/Machine/State.lean ====
section
/-! DEFINITION. The state of the QT9 as plain data: every register, FIFO, buffer, counter, mode and pin the spec gives
it, the queue of waiting commands, and the model's own three fields (pending, fresh, out). -/

namespace Sys2Proof.Machine

/-- Entries by number, numbers strictly rising; a number not listed is at its default. -/
abbrev AMap (α : Type) := List (Nat × α)

/-- The entry of a number, or none. -/
def AMap.find {α : Type} : AMap α → Nat → Option α
  | [], _ => none
  | (i, a) :: m, k => if i = k then some a else if k < i then none else AMap.find m k

/-- The entry of a number, or the default. -/
def AMap.get {α : Type} (m : AMap α) (k : Nat) (d : α) : α := (m.find k).getD d

/-- The map with one entry put in. -/
def AMap.put {α : Type} : AMap α → Nat → α → AMap α
  | [], k, a => [(k, a)]
  | (i, b) :: m, k, a =>
    if k < i then (k, a) :: (i, b) :: m else if i = k then (k, a) :: m else (i, b) :: AMap.put m k a

/-- The map without one entry. -/
def AMap.drop {α : Type} : AMap α → Nat → AMap α
  | [], _ => []
  | (i, b) :: m, k => if i = k then m else if k < i then (i, b) :: m else (i, b) :: AMap.drop m k

/-- The engine status word by fields (R142); ENC always equals PRIV and has no field of its own (R159). -/
structure Esw where
  cb : BitVec 16 := 0
  sb : BitVec 16 := 0
  drnd : BitVec 3 := 0
  dfrnd : BitVec 3 := 0
  dfte : BitVec 5 := 0
  dxe : BitVec 3 := 7
  key : BitVec 4 := 0
  tx : BitVec 2 := 0
  salv : Bool := false
  bp : Bool := false
  la : Bool := false
  pr : Bool := false
  ie : Bool := false
  priv : Bool := true
  deriving DecidableEq, Repr

/-- The control registers of an engine (R147 to R156, R66, R162). -/
structure Cr where
  esw : Esw := {}
  tsbr : W64 := 0
  xvec : W64 := 0
  ptroot : W64 := 0
  sp : BitVec 32 := 0
  oslo : BitVec 32 := 0
  oshi : BitVec 32 := 0
  osp : BitVec 32 := 0
  ls : BitVec 32 := 0
  le : BitVec 32 := 0
  lc : BitVec 32 := 0
  ssrc : BitVec 48 := 0
  sdst : BitVec 48 := 0
  scnt : BitVec 32 := 0
  saux : W64 := 0
  aflag : W64 := 0
  cyc : W64 := 0
  tkcmp : W64 := 0
  tkctl : W64 := 0
  vs : Bool := false
  intm : W64 := 0
  scrw : W64 := 0
  deriving DecidableEq, Repr

/-- A DF operand latch: two halves and the pair flag (R259). -/
structure DfLatch where
  hi : W64 := 0
  lo : W64 := 0
  pair : Bool := false
  deriving DecidableEq, Repr

/-- A result that may be a decimal128 pair (R189, R248): the value, and whether it is a pair. -/
structure Wide where
  val : BitVec 128 := 0
  wide : Bool := false
  deriving DecidableEq, Repr

/-- A DM product and the number of the bundle that triggered it (R191). -/
structure Prod where
  at_ : Nat
  hi : Tally
  lo : Tally
  deriving DecidableEq, Repr

/-- One unit port set: operand latches and result ports (R378). -/
structure Ports where
  alu0o : W64 := 0
  alu0r : W64 := 0
  alu1o : W64 := 0
  alu1r : W64 := 0
  dao : Tally := 0
  dar : Tally := 0
  dmo : Tally := 0
  prods : List Prod := []
  ddo : Tally := 0
  dq : Tally := 0
  drm : Tally := 0
  dfo : DfLatch := {}
  dfo2 : DfLatch := {}
  dfr : Wide := {}
  cvo : W64 := 0
  cvr : Wide := {}
  ckr : Tally := 0
  str : Tally := 0
  edr : Tally := 0
  ls0o : Tally := 0
  ls0r : Tally := 0
  ls1o : Tally := 0
  ls1r : Tally := 0
  deriving DecidableEq, Repr

/-- A Rind bundle or a Curd instruction (with its repeat prefix when `rep`). -/
inductive Insn where
  | rind (b : Bundle)
  | curd (op : Byte) (imm : BitVec 32) (rep : Bool)
  deriving DecidableEq, Repr

/-- A busy DD divide (R244 to R246): operands, OPMOD, the DRND resolved at the first trigger, the bundle that triggered
it, its place in the bundle count, the port set it delivers to, and whether ESW.DXE enabled the condition it raises when it
was triggered (R252). -/
structure DdRun where
  o : Tally
  t : Tally
  opmod : BitVec 9
  drnd : BitVec 3
  org : BitVec 48
  at_ : Nat
  handler : Bool
  slot : Nat := 3
  on : Bool := false
  deriving DecidableEq, Repr

/-- A busy DF div (R278). -/
structure DfRun where
  o : DfLatch
  t : DfLatch
  opmod : BitVec 9
  dfrnd : BitVec 3
  handler : Bool
  deriving DecidableEq, Repr

/-- The values that the moves of a bundle read as it issued: slot, destination, OPMOD, value, whether it is a pair. -/
abbrev Vals := List (Nat × BitVec 12 × BitVec 9 × BitVec 128 × Bool)

/-- Where Rennet stands (R407): the microaddress, the micro-return stack newest first, the micro-counter, whether a WG
word of the iteration has been read, the bytes that its MEMOP 6 words have written, and what its patch words have done
beside (R406): SAUX bits 63 to 59 set and cleared, and AFLAG bits set. -/
structure Micro where
  at_ : Nat
  stack : List Nat := []
  cnt : Nat := 0
  wg : Bool := false
  wrote : Nat := 0
  setBits : Nat := 0
  clrBits : Nat := 0
  flags : Nat := 0
  deriving DecidableEq, Repr

/-- A string-class operation whose bundle or Curd instruction has not retired (R291, R229): the instruction, the bundle
it belongs to with its values read at issue, the trigger port and OPMOD, whether a Curd instruction popped its operands at
this issue (R213) or resumed (R229), its stack depth before it popped, the tally and control registers as they were then
(R222), and where Rennet stands. -/
structure StrRun where
  insn : Insn
  port : BitVec 12
  opmod : BitVec 9
  vals : Vals
  popped : Bool := false
  deep : Nat := 0
  back : Option (List Tally × Cr) := none
  micro : Micro
  deriving DecidableEq, Repr

/-- One store-buffer entry: 1 to 12 bytes within one line (R354). -/
structure SbEntry where
  va : BitVec 48
  pa : Nat
  bytes : List Byte
  device : Bool
  deriving DecidableEq, Repr

/-- The first pending imprecise condition and how many more came (R384, R377). -/
structure Imprecise where
  slot : Nat := 3
  trig : BitVec 12
  kind : Nat
  dest : BitVec 12
  org : BitVec 48
  at_ : Nat
  more : Nat := 0
  deriving DecidableEq, Repr

/-- A TLB entry (R317, R318): first VA page, page size as its low-bit count (12, 21 or 30), frame, leaf bits, root tag,
and for the L1 TLBs the key byte of the frame. -/
structure Tlb where
  va : Nat
  size : Nat
  pa : Nat
  leaf : W64
  root : Nat
  key : Byte := 0
  deriving DecidableEq, Repr

/-- An engine's wait in PX.t.begin or PX.t.peek (R202): what R204 resumes with, and the bundle with its values read at
issue, which retires at a dispatch, behind the result of a string-class operation it triggered too (R291). -/
structure Wait where
  resume : BitVec 32
  esw : Esw
  peekOnly : Bool
  bundle : Bundle := 0
  vals : Vals := []
  str : Option (BitVec 12 × BitVec 9 × Tally × Bool) := none
  deriving DecidableEq, Repr

/-- An attempt in progress on an engine (R75 to R79, R119): the transaction's key, the bundle count, the whey buffer
(masked bytes of ledger lines, by address) and where the engine continues when it ends. -/
structure Attempt where
  key : Nat
  peek : Bool
  solo : Bool
  precise : Bool
  turn : Nat
  snap : Nat
  cfg : Nat
  count : Nat
  blimit : Nat
  whey : Bytes
  back : Wait
  deriving DecidableEq, Repr

/-- The operating state of an engine, ENG_STAT.STATE (R510). -/
inductive EngMode where
  | running | held | stopped | slice | mapped
  deriving DecidableEq, Repr

/-- The Rennet patch and status registers (R412). -/
structure Rennet where
  pmatch : AMap W64 := []
  paddr : Nat := 0
  pdata0 : W64 := 0
  pdata1 : W64 := 0
  patch : AMap (BitVec 152) := []
  stat : W64 := 0
  lastStop : Option Nat := none
  deriving DecidableEq, Repr

/-- What an engine's memory side holds: store buffer, what the parts of a split load that waits may have read (address and
bytes, R360), TLBs, the lines of the instruction cache (line number and bytes, R342), scratch store and engine-local
SRAM. -/
structure EngMem where
  sbuf : List SbEntry := []
  early : List (Nat × List Byte) := []
  itlb : List Tlb := []
  dtlb : List Tlb := []
  icache : List (Nat × List Byte) := []
  scratch : Bytes := []
  sram : Bytes := []
  deriving DecidableEq, Repr

/-- One engine. `seen` is the device mode that it goes by while a divide, a string-class operation or a bundle whose loads
wait is in progress (R390). -/
structure Eng where
  t : List Tally := List.replicate 32 0
  p : BitVec 16 := 1
  b : List (BitVec 16) := List.replicate 8 0
  cr : Cr := {}
  sync : List (Nat × W64) := []
  pc : BitVec 32 := 0
  bt : BitVec 48 := 0
  prog : Ports := {}
  hand : Ports := {}
  hset : Bool := false
  nb : Nat := 0
  dd : Option DdRun := none
  df : Option DfRun := none
  str : Option StrRun := none
  missing : Option (Insn × List Nat) := none
  imp : Option Imprecise := none
  amc : Option (BitVec 48) := none
  mem : EngMem := {}
  att : Option Attempt := none
  wait : Option Wait := none
  mode : EngMode := .held
  hold : Bool := true
  drain : Bool := false
  drained : Bool := false
  rsvwr : Bool := false
  sramAddr : Nat := 0
  rn : Rennet := {}
  seen : Nat := 0
  deriving DecidableEq, Repr

/-- One vat: its TLB, maintenance registers, the writes it has not acknowledged (requester, window offset, value, slot + 1 of
the VCS_WRITE that made it or 0; R512, R515, R330, R470), adaptive loop (`dip`: the least slack that made the droop guard act since the last retarget), slice
registers (`joins`: an engine stopped while the slice runs, R591), Press counters. -/
structure Vat where
  tlb : List Tlb := []
  tlbiArg : W64 := 0
  tlbiStat : W64 := 0
  tlbiReq : Option (W64 × W64) := none
  held : List (Who × Nat × W64 × Nat) := []
  rsvwr : Bool := false
  inReset : Bool := false
  lmask : BitVec 18 := 0x3FFFF
  gmask : BitVec 18 := 0x3FFFF
  cnt : AMap W64 := []
  vfStat : W64 := BitVec.ofNat 64 (1200 * 2 ^ 52)
  need : Nat := 800
  trim : Nat := 0
  target : Option Nat := none
  raise : Option Nat := none
  dip : Option Nat := none
  pwrCtl : W64 := BitVec.ofNat 64 (310 * 2 ^ 52 + 110 * 2 ^ 44 + 2 * 2 ^ 40 + 4 * 2 ^ 36 + 14)
  pwrBound : W64 := BitVec.ofNat 64 (1200 * 2 ^ 48 + 1800 * 2 ^ 32 + 1600 * 2 ^ 16)
  pinned : W64 := 0
  took : W64 := BitVec.ofNat 64 (310 * 2 ^ 52 + 110 * 2 ^ 44 + 2 * 2 ^ 40 + 4 * 2 ^ 36 + 14)
  tookBound : W64 := BitVec.ofNat 64 (1200 * 2 ^ 48 + 1800 * 2 ^ 32 + 1600 * 2 ^ 16)
  stStat : W64 := BitVec.ofNat 64 (0x1F * 2 ^ 54 + 0x1F * 2 ^ 49 + 32 * 2 ^ 20)
  stCount : W64 := 0
  stLink : W64 := BitVec.ofNat 64 (8 * 2 ^ 28 + 8 * 2 ^ 24)
  slot : Option Nat := none
  offrot : Bool := false
  back : Option Nat := none
  joins : Bool := false
  region : Option Nat := none
  deriving DecidableEq, Repr

/-- A Turner receiver whose own count may differ from the Turner's, or that has found a mismatch (R53, R54): its turn and
tick count, the turn of its last mismatch, and whether it waits for a check word. A receiver not listed counts as the
Turner does. -/
structure Rx where
  turn : Nat
  tick : Nat
  bad : Option Nat := none
  waiting : Bool := false
  deriving DecidableEq, Repr

/-- The Turner (R39 to R65): its registers, the length of the turn, the length the source asks of the next, holdover and
TURN_IN state, the phase error of the last tick 0 in ns once a reference has been seen (R48), the rise of TURN_OUT that is
due (R61), its receivers. -/
structure Turner where
  ctl : W64 := BitVec.ofNat 64 (1000 * 2 ^ 47 + 655 * 2 ^ 32 + 4096 * 2 ^ 16)
  status : W64 := 0
  turn : Nat := 0
  tick : Nat := 0
  len : Nat := 0
  goal : Nat := 0
  hold : Nat := 0
  edgeAt : Option Nat := none
  lag : Nat := 0
  edge : Bool := false
  phase : Option Int := none
  rise : Bool := false
  first : Bool := false
  rearm : Bool := false
  fresh : Bool := false
  saved : Option Nat := none
  start : Nat := 0
  rx : AMap Rx := []
  deriving DecidableEq, Repr

/-- What a transaction is doing (R74, R92). -/
inductive Phase where
  | queued | running (e : Nat) | sealed (e : Nat)
  deriving DecidableEq, Repr

/-- A posting or peek from admission to its end (R69 to R94): the frame, its admission, and its progress. `writes` are the
bytes its commit stages, `wrote` the lines it wrote whatever its outcome (R137). -/
structure Tx where
  peek : Bool
  turn : Nat
  tick : Nat
  port : Nat
  sub : Nat
  src : Addr
  header : List Byte
  payload : List Byte
  cfg : Nat
  phase : Phase := .queued
  solo : Bool := false
  throt : Bool := false
  rerun : Nat := 0
  stops : Nat := 0
  precise : Bool := false
  reads : List Nat := []
  writes : Bytes := []
  wrote : List Nat := []
  outcome : Nat := 0
  result : List Byte := []
  acked : Bool := false
  deriving DecidableEq, Repr

/-- What a committed posting answers at its release (R95, R504). -/
structure Done where
  key : Nat
  outcome : Nat
  result : List Byte
  port : Nat
  sub : Nat
  src : Addr
  header : List Byte
  deriving DecidableEq, Repr

/-- A batch that is not released (R74, R95, R100): membership final, deadline missed, staged bytes, its committed postings, and
the turn and tick its last commit or wait ended at. -/
structure Batch where
  final : Bool := false
  missed : Bool := false
  staged : Bytes := []
  done : List Done := []
  readyAt : Nat := 0
  deriving DecidableEq, Repr

/-- What the Press counts of a recipe (R124, R126). -/
structure Recipe where
  att : Nat := 0
  stop : Nat := 0
  held : Option Nat := none
  policy : Nat := 0
  deriving DecidableEq, Repr

/-- What a home slice counts of a wheel (R128). -/
structure Wheel where
  n : Nat := 0
  sr : Nat := 0
  sc : Nat := 0
  t : Nat := 0
  x : Nat := 0
  deriving DecidableEq, Repr

/-- An explicit home or pin waiting for a release point (R132): wheel, home map byte, and the slot of the command. -/
structure Move where
  wheel : Nat
  byte : Byte
  slot : Nat
  deriving DecidableEq, Repr

/-- A commit log section (R134): the byte count of the ring at which the next record may begin, and the records it holds,
each with the count at which it begins. A record's place in the section is its count modulo the section's size. -/
structure Section where
  top : Nat := 0
  recs : List (Nat × List Byte) := []
  deriving DecidableEq, Repr

/-- The Press and the placement loop (R80 to R137, R504). -/
structure Press where
  ctl : W64 := BitVec.ofNat 64 (4096 * 2 ^ 48 + 2 ^ 36 + 3 * 2 ^ 32 + 64 * 2 ^ 16)
  status : W64 := 0
  count : W64 := 0
  cap : W64 := BitVec.ofNat 64 (1024 * 2 ^ 40 + 4096 * 2 ^ 24 + 4)
  tune : W64 := BitVec.ofNat 64 (64 * 2 ^ 56 + 8 * 2 ^ 48 + 16 * 2 ^ 40 + 32 * 2 ^ 32 + 8 + 4)
  plcCtl : W64 := BitVec.ofNat 64 (64 * 2 ^ 48 + 256 * 2 ^ 32 + 32 * 2 ^ 24 + 24 * 2 ^ 16 + 8 * 2 ^ 4 + 1)
  plcVmask : W64 := 0
  plcStatus : W64 := 0
  stats : AMap W64 := []
  home : AMap Byte := []
  txs : AMap Tx := []
  batches : AMap Batch := []
  back : Bytes := []
  marks : List Nat := []
  relBatch : Option Nat := none
  versions : List (Nat × Bytes) := []
  clog : AMap Section := []
  recipes : AMap Recipe := []
  wheels : AMap Wheel := []
  moves : List Move := []
  moving : AMap (Nat × Nat) := []
  explicit : List Nat := []
  chain : List Byte := List.replicate 48 0
  relHash : List Byte := List.replicate 48 0
  slipTurn : Option Nat := none
  select : Bool := false
  deriving DecidableEq, Repr

/-- A lane table entry (R487), its key apart. -/
structure Lane where
  valid : Bool := false
  postEn : Bool := false
  peekEn : Bool := false
  keyv : Bool := false
  classMax : Nat := 0
  cscore : Nat := 0
  ports : BitVec 16 := 0
  hiseq : Nat := 0
  win : W64 := 0
  lastTurn : Nat := 0
  nAdmit : Nat := 0
  nBusy : Nat := 0
  nReject : Nat := 0
  nAuth : Nat := 0
  deriving DecidableEq, Repr

/-- A sub-port (R471 to R473): its addresses, its link and its transmit queues by precedence (R495). -/
structure SubPort where
  set : Bool := false
  ipver : Nat := 0
  udp : Nat := 0
  vlan : Nat := 0
  ip : Nat := 0
  up : Bool := false
  q1 : List (Addr × List Byte) := []
  q2 : List (Addr × List Byte) := []
  q3 : List (Addr × List Byte) := []
  deriving DecidableEq, Repr

/-- The PTP unit (R46, R47, R498 to R500): PTP_CTL, the PTP time counter at the last tick 0 in ns, the senders heard in
Announce messages with their data sets, the master, the Sync that waits for its Follow_Up (sequence, arrival, correction),
the last master-to-slave difference, the Delay_Req that waits for its answer (sequence, departure), the mean path delay,
the interval of Delay_Req, the last offset and whether the servo has one. -/
structure Ptp where
  ctl : W64 := 3
  time : Int := 0
  heard : List (Nat × PtpData) := []
  master : Option Nat := none
  awaits : Option (Nat × Int × Int) := none
  ms : Int := 0
  seq : Nat := 0
  req : Option (Nat × Int) := none
  delay : Int := 0
  interval : Int := 0
  offset : Int := 0
  synced : Bool := false
  deriving DecidableEq, Repr

/-- What AES-256-GCM has wrapped (R489, R597): the key and the additional data it is wrapped under, and what it holds (log 6). -/
structure Sealed where
  under : List Byte
  name : List Byte
  plain : List Byte
  deriving DecidableEq, Repr

/-- Intake (R471 to R500): admission registers, ports, the lane key table as memory holds it, lanes with the entries in force until the next tick 0 and those
that were until the last (R463), the lanes whose window LANE_WRITE has set since the last tick 0 and in the turn before,
counters, PTP. -/
structure Intake where
  ctl : W64 := BitVec.ofNat 64 (1048576 * 2 ^ 43 + 512 * 2 ^ 31 + 128 * 2 ^ 19 + 15 * 2 ^ 15 + 20 * 2 ^ 4 + 1)
  weight : W64 := 0x76543210
  status : W64 := 0
  speed : AMap Nat := []
  subs : AMap SubPort := []
  lanes : AMap Lane := []
  lanesOld : AMap Lane := []
  keyTab : AMap Sealed := []
  keys : AMap (List Byte) := []
  keysOld : AMap (Option (List Byte)) := []
  lanesPrev : AMap Lane := []
  rewritten : List Nat := []
  rewrittenPrev : List Nat := []
  keysPrev : AMap (Option (List Byte)) := []
  cnt : AMap W64 := []
  stopped : Bool := false
  ptp : Ptp := {}
  deriving DecidableEq, Repr

/-- A mailbox (R425): CMD and RSP by bytes, MBX_STATUS, MBX_CTL (none: as reset). -/
structure Mbx where
  cmd : Bytes := []
  rsp : List Byte := List.replicate 64 0
  stat : W64 := 0
  ctl : Option W64 := none
  deriving DecidableEq, Repr

/-- A ring block (R428 to R433): registers, phase, fetched count, completions not yet announced. -/
structure Ring where
  sqBase : W64 := 0
  cqBase : W64 := 0
  ctl : Option W64 := none
  sqPi : Nat := 0
  sqCi : Nat := 0
  cqPi : Nat := 0
  cqCi : Nat := 0
  stat : W64 := 1
  phase : Bool := false
  fetched : Nat := 0
  unannounced : Nat := 0
  held : List (Nat × List Byte) := []
  order : List Nat := []
  deriving DecidableEq, Repr

/-- A function of the host interface (R418 to R442). -/
structure Fn where
  mbx : AMap Mbx := []
  rings : AMap Ring := []
  evqBase : W64 := 0
  evqCtl : W64 := 2
  evqPi : Nat := 0
  evqCi : Nat := 0
  evqPhase : Bool := false
  stat : W64 := 0
  mask : W64 := 0xFFFFFFFFFFFFFFFF
  vecs : AMap (W64 × BitVec 32) := []
  fmask : Bool := false
  msixOn : Bool := false
  pend : W64 := 0
  flr : Bool := false
  deriving DecidableEq, Repr

/-- The host interface: its functions, the VFs enabled, PERST_N (R418, R627). -/
structure HostIf where
  fns : AMap Fn := []
  vfs : Nat := 0
  perst : Bool := false
  linkUp : Bool := false
  gen4 : Bool := false
  deriving DecidableEq, Repr

/-- Where a command came from (R451): a mailbox 0 to 63, or ring n as 64 + n. -/
structure Cmd where
  id : Nat
  fn : Nat
  source : Nat
  bytes : List Byte
  waits : Bool := false
  deriving DecidableEq, Repr

/-- A running command: its slot's command, whether its function has been reset under it (R441), whether its effect is
made and it waits for something, and a count for its RESULT. -/
structure Run where
  cmd : Cmd
  mute : Bool := false
  started : Bool := false
  count : Nat := 0
  deriving DecidableEq, Repr

/-- The record of an ended command (R451). -/
structure Rec where
  id : Nat := 0
  fn : Nat
  source : Nat
  tag : Nat
  state : Nat
  status : Nat
  result : List Byte
  deriving DecidableEq, Repr

/-- A configuration set (R455): version, effective turn, root values, descriptors. -/
structure CfgSet where
  ver : Nat
  eff : Nat
  root : W64
  xvec : W64
  tsbr : W64
  scrw : W64
  descs : List (List Byte)
  deriving DecidableEq, Repr

/-- The journal (R465, R501 to R503, R635): destination, ring, bytes, records held for room, and the FRAME records of a turn
whose predecessor's membership is not final (R503). -/
structure Journal where
  set : Bool := false
  ddr : Bool := false
  size : Nat := 0
  base : Nat := 0
  made : Nat := 0
  used : Nat := 0
  bytes : AMap Byte := []
  held : List (Nat × List Byte) := []
  next : List (List Byte) := []
  keys : List (Nat × List Byte) := []
  rolls : Nat := 0
  deriving DecidableEq, Repr

/-- Replay (R466, R505): supplied RELEASE hashes by batch, the supplied records by turn, the chain values of LEDGER_LOAD and
START records with the batch whose RELEASE they come before, the turn of the last FRAME, what has been compared. -/
structure Replay where
  frames : List (Nat × List Byte) := []
  lastFrame : Option Nat := none
  chains : List (Nat × List Byte) := []
  hashes : AMap (List Byte) := []
  lastSup : Nat := 0
  lastCmp : Nat := 0
  chain : Option (List Byte) := none
  diverged : Option Nat := none
  deriving DecidableEq, Repr

/-- Firmware banks, the boot record with its two copies as the flash holds them, and what the boot made of them (R453, R454,
R575 to R579). -/
structure Firmware where
  banks : AMap (List Byte) := []
  sel : Nat := 0
  once : Bool := false
  prev : Nat := 0
  valid : BitVec 2 := 0
  failed : BitVec 2 := 0
  recOk : Bool := false
  recSeq : Nat := 0
  copies : AMap (List Byte) := []
  running : Option Nat := none
  image : List Byte := []
  hostLoad : Bool := false
  started : Bool := false
  upatch : Nat := 0
  urom : Nat := 1
  deriving DecidableEq, Repr

/-- The Key Vault (R596 to R603): KP and KID, KO and LKR as they are unwrapped, KJ, the vault store (entry 0 KO, entry 1 LKR), the
challenge and the permission. -/
structure Vault where
  kp : Option (List Byte) := none
  kid : Option Nat := none
  store : AMap Sealed := []
  ko : Option (List Byte) := none
  lkr : Option (List Byte) := none
  kj : List Byte := []
  off : Bool := false
  chal : Option (List Byte) := none
  permit : Bool := false
  draws : Nat := 0
  deriving DecidableEq, Repr

/-- Viari (R437 to R470). `floor`: the version of the set that a warm restart restored as the set in force (R571). -/
structure Viari where
  ready : Bool := false
  nextId : Nat := 0
  queue : List Cmd := []
  runs : AMap Run := []
  rr : Nat := 0
  recs : List Rec := []
  sets : List CfgSet := []
  stage : Option CfgSet := none
  nextVer : Nat := 1
  rgnLdg : W64 := 0
  rgnFwh : W64 := 0
  rgnFwd : W64 := 0
  saStat : Bool := false
  jrn : Journal := {}
  rpl : Replay := {}
  fw : Firmware := {}
  vault : Vault := {}
  turnSet : Bool := false
  jrnSet : Bool := false
  warmD : Option Nat := none
  floor : Option Nat := none
  warmWait : Bool := false
  deriving DecidableEq, Repr

/-- One memory controller's registers (R534) and an open tracking window. -/
structure Mc where
  info : W64 := 0
  stat : W64 := 0
  ce : W64 := 0
  ue : W64 := 0
  uePa : W64 := 0
  scrub : Option W64 := none
  window : Bool := false
  failed : Bool := false
  deriving DecidableEq, Repr

/-- A store that some vats have not seen yet (R347): the engine that made it, its address, the bytes before it, and the vats
with respect to whose engines it is not performed. -/
structure Late where
  eng : Nat
  pa : Nat
  old : List Byte
  unseen : W64
  deriving DecidableEq, Repr

/-- Physical memory: bytes that are not 0 as the coherence order has them, the stores that some vat has not seen, oldest
first (R344, R347), DDR5 capacity in GiB, poisoned lines, key bytes that are not 0. -/
structure Mem where
  bytes : Bytes := []
  late : List Late := []
  ddrGib : Nat := 0
  poison : List Nat := []
  keys : Bytes := []
  mcs : AMap Mc := []
  deriving DecidableEq, Repr

/-- The registers of a VCS window (R506 to R510). -/
structure VcsWin where
  mask : W64 := 0
  rdCp : Nat := 0
  rdHost : Nat := 0
  stat : W64 := 0
  deriving DecidableEq, Repr

/-- A rail (R541 to R543): a row rail's voltage in mV and its pending write; whether its AVSBus transactions fail. -/
structure Rail where
  mv : Nat := 800
  pend : Option Nat := none
  bad : Bool := false
  deriving DecidableEq, Repr

/-- Power, clocks and adaptive loops (R535 to R557); `raw` is the sum of the estimates at the last retarget, and `corr` what the
telemetry adds to it (R549). -/
structure Power where
  ctl : W64 := BitVec.ofNat 64 (310 * 2 ^ 52 + 110 * 2 ^ 44 + 2 * 2 ^ 40 + 4 * 2 ^ 36 + 14)
  bound : W64 := BitVec.ofNat 64 (1200 * 2 ^ 48 + 1800 * 2 ^ 32 + 1600 * 2 ^ 16)
  pinmask : W64 := 0
  status : W64 := BitVec.ofNat 64 (1800 * 2 ^ 32 + 1800 * 2 ^ 20)
  avs : W64 := BitVec.ofNat 64 (20 * 2 ^ 48 + 620 * 2 ^ 32 + 920 * 2 ^ 16 + 6 * 2 ^ 8)
  srd : W64 := BitVec.ofNat 64 (10 * 2 ^ 24 + 2 ^ 5)
  rails : AMap Rail := []
  coefs : AMap (List Int) := []
  raw : Option Nat := none
  corr : Int := 0
  low : Bool := true
  deriving DecidableEq, Repr

/-- The cave log (R605 to R612): record ring, boot counts, the two copies of the control block (sequence count, boot counts; log
24), the two first-failure areas, the rate limit, SMBus pointers. -/
structure Cave where
  ring : AMap (List Byte) := []
  rseq : Nat := 0
  cold : Nat := 0
  warm : Nat := 0
  ctl : AMap (Nat × Nat × Nat) := []
  cur : Bytes := []
  prev : Bytes := []
  nrec : Nat := 0
  capv : Bool := false
  per : AMap Nat := []
  lost : AMap Nat := []
  ringPtr : Nat := 0
  areaPrev : Bool := false
  areaPtr : Nat := 0
  deriving DecidableEq, Repr

/-- The warm-restart record (R568 step 6). -/
structure WarmRec where
  rgnLdg : W64
  rgnFwh : W64
  rgnFwd : W64
  trnCtl : W64
  ptp : W64
  speed : AMap Nat
  subs : AMap SubPort
  jrn : Journal
  mapped : List Nat
  rel : Nat
  set : Option CfgSet
  deriving DecidableEq, Repr

/-- Modes, reset, boot, pins and the TAP (R558 to R579, R613 to R630). `pgLow`: PWRGOOD fell while VDD_AON was low (R630). -/
structure Device where
  mode : Nat := 0
  prev : Nat := 0
  straps : BitVec 5 := 0
  pwrgood : Bool := false
  resetN : Bool := true
  aon : Bool := true
  pgLow : Bool := false
  sbUp : Bool := true
  turnOut : Bool := false
  bscan : Bool := false
  warmHeld : Bool := false
  coldWait : Option PowerOn := none
  bootKind : Nat := 1
  puf : Option Nat := none
  record : Option WarmRec := none
  mapped : List Nat := []
  links : AMap (Nat × Nat) := []
  linkBusy : List Nat := []
  linkCrc : AMap (Nat × Nat) := []
  fromReplay : Bool := false
  drainTo : Nat := 0
  part : Nat := 16
  tap : Nat := 2
  tapReg : Nat := 0
  boundary : BitVec 1356 := 0
  scanOn : Bool := false
  deriving DecidableEq, Repr

/-- What the device has put on its pins and buses (log 2). -/
inductive Out where
  | frame (port sub : Nat) (dst : Addr) (bytes : List Byte)
  | dma (fn : Nat) (addr : Nat) (bytes : List Byte)
  | dmaRead (fn addr len : Nat)
  | msix (fn vec addr : Nat) (data : BitVec 32)
  | turnOut (level : Bool)
  | gpio (n : Nat) (level : Bool)
  | avs (rail mv : Nat)
  | smbus (port : SmbPort) (bytes : List Byte)
  | nack (port : SmbPort)
  | tdo (bits : Nat)
  | pins (cells : BitVec 1356)
  | hiz
  | value (who : Who) (w : W64)
  | ddrSideband (side channel : Nat)
  deriving DecidableEq, Repr

/-- The QT9. -/
structure State where
  engs : AMap Eng := []
  vats : AMap Vat := []
  trn : Turner := {}
  prs : Press := {}
  itk : Intake := {}
  host : HostIf := {}
  via : Viari := {}
  mem : Mem := {}
  vcs : AMap VcsWin := []
  pwr : Power := {}
  cave : Cave := {}
  dev : Device := {}
  out : List Out := []
  fresh : Nat := 0
  pending : List Instr := []
  deriving DecidableEq, Repr

/-- The machine right after reset: Dormant, before PWRGOOD rises, every register at its reset value, no command
waiting. -/
def State.reset : State := {}

/-- Faults of the model. -/
inductive Fault where
  /-- No meaning raises it: every access outcome of the spec is an exception, which is taken (R371). Safe. -/
  | none_
  deriving DecidableEq, Repr

/-- Refusals of the model. -/
inductive Refusal where
  /-- Raised by Dispatch for a command that has no meaning yet. Safe: nothing is claimed. -/
  | notModelled (mnemonic : String)
  /-- Raised by a meaning whose operands do not spell its row: a bundle without a trigger of the row, a Viari row for a
  slot that runs another CODE, a VCS row for a register of another row. Safe: such a command is no command of the
  table. -/
  | notThisCommand
  deriving DecidableEq, Repr

/-- What a command answers. -/
abbrev Answer := Host.Outcome State Fault Refusal

end Sys2Proof.Machine
end

