-- ==== Sys2Proof/Machine/Bits.lean ====
section
/-! DEFINITION. Bit fields, big-endian bytes, sparse bytes and CRC-32C. -/

namespace Sys2Proof.Machine

/-- Bits hi down to lo of a 64-bit register, as a number (R4). -/
def fld (w : W64) (hi lo : Nat) : Nat := w.toNat / 2 ^ lo % 2 ^ (hi - lo + 1)

/-- The register with bits hi down to lo set to the low bits of v. -/
def setFld (w : W64) (hi lo v : Nat) : W64 :=
  BitVec.ofNat 64 (w.toNat - fld w hi lo * 2 ^ lo + v % 2 ^ (hi - lo + 1) * 2 ^ lo)

/-- One bit of a register. -/
def bit (w : W64) (i : Nat) : Bool := w.getLsbD i

/-- The register with one bit set or cleared. -/
def setBit (w : W64) (i : Nat) (v : Bool) : W64 :=
  if v then w ||| BitVec.ofNat 64 (2 ^ i) else w &&& ~~~ BitVec.ofNat 64 (2 ^ i)

/-- The mask of bits hi down to lo. -/
def maskOf (hi lo : Nat) : W64 := BitVec.ofNat 64 ((2 ^ (hi - lo + 1) - 1) * 2 ^ lo)

/-- A field raised by n, saturating at its top value. -/
def satFld (w : W64) (hi lo n : Nat) : W64 := setFld w hi lo (min (fld w hi lo + n) (2 ^ (hi - lo + 1) - 1))

/-- A 64-bit counter raised by n, saturating (R137). -/
def satAdd (w : W64) (n : Nat) : W64 := BitVec.ofNat 64 (min (w.toNat + n) (2 ^ 64 - 1))

/-- A number as n big-endian bytes (R5). -/
def toBytes : Nat → Nat → List Byte
  | 0, _ => []
  | n + 1, v => BitVec.ofNat 8 (v / 256 ^ n) :: toBytes n v

/-- Big-endian bytes as a number (R5). -/
def ofBytes (l : List Byte) : Nat := l.foldl (fun a b => a * 256 + b.toNat) 0

/-- Bytes from to from + n - 1 of a list, absent bytes reading 0. -/
def slice (l : List Byte) (off n : Nat) : List Byte :=
  let r := (l.drop off).take n
  r ++ List.replicate (n - r.length) 0

/-- The number that bytes off to off + n - 1 hold. -/
def numAt (l : List Byte) (off n : Nat) : Nat := ofBytes (slice l off n)

/-- The list with bytes put at an offset. -/
def putAt (l : List Byte) (off : Nat) (b : List Byte) : List Byte :=
  l.take off ++ List.replicate (off - l.length) 0 ++ b ++ l.drop (off + b.length)

/-- A list padded with zero bytes to a multiple of n. -/
def padTo (n : Nat) (l : List Byte) : List Byte := l ++ List.replicate ((n - l.length % n) % n) 0

/-- The byte listed at an address. -/
def getByte : Bytes → Nat → Option Byte
  | [], _ => none
  | (i, a) :: m, k => if i = k then some a else if k < i then none else getByte m k

/-- The sparse bytes with one byte put in. -/
def putByte : Bytes → Nat → Byte → Bytes
  | [], k, a => [(k, a)]
  | (i, b) :: m, k, a =>
    if k < i then (k, a) :: (i, b) :: m else if i = k then (k, a) :: m else (i, b) :: putByte m k a

/-- The sparse bytes without one address. -/
def dropByte : Bytes → Nat → Bytes
  | [], _ => []
  | (i, b) :: m, k => if i = k then m else if k < i then (i, b) :: m else (i, b) :: dropByte m k

/-- A read where an unlisted byte is 0. -/
def readByte (m : Bytes) (a : Nat) : Byte := (getByte m a).getD 0

/-- A write that keeps the canonical form: no listed byte is 0. -/
def writeByte (m : Bytes) (a : Nat) (v : Byte) : Bytes := if v = 0 then dropByte m a else putByte m a v

/-- n bytes from an address. -/
def readBytes (m : Bytes) (a n : Nat) : List Byte := (List.range n).map fun i => readByte m (a + i)

/-- Bytes written from an address on. -/
def writeBytes (m : Bytes) (a : Nat) : List Byte → Bytes
  | [] => m
  | v :: l => writeBytes (writeByte m a v) (a + 1) l

/-- Bytes put into an overlay from an address on: every byte is listed, 0 too. -/
def overBytes (m : Bytes) (a : Nat) : List Byte → Bytes
  | [] => m
  | v :: l => overBytes (putByte m a v) (a + 1) l

/-- Addresses strictly rising from a bound. -/
def risingFrom : Nat → Bytes → Bool
  | _, [] => true
  | lo, (i, _) :: m => decide (lo ≤ i) && risingFrom (i + 1) m

/-- Canonical sparse bytes: addresses strictly rising and no byte equal to the 0 an unlisted address reads. -/
def Bytes.wf (m : Bytes) : Bool := risingFrom 0 m && m.all fun c => decide (c.2 ≠ 0)

/-- The lines (address div 64) that listed bytes lie in, ascending. -/
def linesOf (m : Bytes) : List Nat :=
  m.foldr (fun c acc => match acc with
    | [] => [c.1 / 64]
    | l :: r => if l = c.1 / 64 then l :: r else c.1 / 64 :: l :: r) []

/-- One step of CRC-32C, reflected Castagnoli polynomial (R134). -/
def crcBit (c : Nat) : Nat := if c % 2 = 1 then Nat.xor (c / 2) 0x82F63B78 else c / 2

/-- CRC-32C of bytes (R134). -/
def crc32c (l : List Byte) : Nat :=
  Nat.xor (l.foldl (fun c b => crcBit (crcBit (crcBit (crcBit (crcBit (crcBit (crcBit (crcBit
    (Nat.xor c b.toNat))))))))) 0xFFFFFFFF) 0xFFFFFFFF

/-- Bytes followed by their CRC-32C (R134, R575, R606). -/
def withCrc (l : List Byte) : List Byte := l ++ toBytes 4 (crc32c l)

/-- Whether the last four bytes are the CRC-32C of those before. -/
def crcOk (l : List Byte) : Bool :=
  decide (4 < l.length) && decide (numAt l (l.length - 4) 4 = crc32c (l.take (l.length - 4)))

/-- The ASCII bytes of a text. -/
def ascii (s : String) : List Byte := s.toList.map fun c => BitVec.ofNat 8 c.toNat

end Sys2Proof.Machine
end

