-- ==== Sys2Proof/Machine/Ops.lean ====
section
/-! DEFINITION. The shared operations on the state: access to engines, vats and functions, the outbox, MSI-X, the event
ring, completions, the cave log, mode changes, memory and regions, abandoning an attempt, and Safe Hold. -/

namespace Sys2Proof.Machine

/-! ### Access -/

/-- An engine by number. -/
def State.eng (s : State) (e : Nat) : Eng := s.engs.get e {}

/-- The state with one engine replaced. -/
def State.setEng (s : State) (e : Nat) (x : Eng) : State := { s with engs := s.engs.put e x }

/-- The state with one engine changed. -/
def State.modEng (s : State) (e : Nat) (f : Eng → Eng) : State := s.setEng e (f (s.eng e))

/-- A vat by number. -/
def State.vat (s : State) (v : Nat) : Vat := s.vats.get v {}

/-- The state with one vat changed. -/
def State.modVat (s : State) (v : Nat) (f : Vat → Vat) : State := { s with vats := s.vats.put v (f (s.vat v)) }

/-- The state with the Turner changed. -/
def State.modTrn (s : State) (f : Turner → Turner) : State := { s with trn := f s.trn }

/-- The state with the Press changed. -/
def State.modPrs (s : State) (f : Press → Press) : State := { s with prs := f s.prs }

/-- The state with Intake changed. -/
def State.modItk (s : State) (f : Intake → Intake) : State := { s with itk := f s.itk }

/-- The state with Viari changed. -/
def State.modVia (s : State) (f : Viari → Viari) : State := { s with via := f s.via }

/-- The state with memory changed. -/
def State.modMem (s : State) (f : Mem → Mem) : State := { s with mem := f s.mem }

/-- The state with the device block changed. -/
def State.modDev (s : State) (f : Device → Device) : State := { s with dev := f s.dev }

/-- The state with the power block changed. -/
def State.modPwr (s : State) (f : Power → Power) : State := { s with pwr := f s.pwr }

/-- The state with the cave log changed. -/
def State.modCave (s : State) (f : Cave → Cave) : State := { s with cave := f s.cave }

/-- A function of the host interface. -/
def State.fn (s : State) (f : Nat) : Fn := s.host.fns.get f {}

/-- The state with one function changed. -/
def State.modFn (s : State) (f : Nat) (g : Fn → Fn) : State :=
  { s with host := { s.host with fns := s.host.fns.put f (g (s.fn f)) } }

/-- The state with one thing put on a pin or bus. -/
def State.emit (s : State) (o : Out) : State := { s with out := o :: s.out }

/-- The state with the free-value counter advanced (log 4). -/
def State.draw (s : State) : State := { s with fresh := s.fresh + 1 }

/-- All vats of the mesh (R15). -/
def allVats : List Nat := List.range 64

/-- The vat of an engine number (R366). -/
def vatOf (e : Nat) : Nat := e / 18

/-- The slot of an engine number. -/
def slotOf (e : Nat) : Nat := e % 18

/-- The turn and tick that a Turner receiver counts (R53): receiver v is vat v's. -/
def State.rxNow (s : State) (r : Nat) : Nat × Nat :=
  (s.trn.rx.find r).elim (s.trn.turn, s.trn.tick) fun x => (x.turn, x.tick)

/-! ### FEAT values (R157) -/

/-- Good engines not mapped out in a vat. -/
def Vat.live (v : Vat) : Nat := (List.range 18).foldl (fun n i => if v.lmask.getLsbD i then n + 1 else n) 0

/-- FEAT0.LIVE (R157). -/
def State.live (s : State) : Nat := allVats.foldl (fun n v => n + (s.vat v).live) 0

/-- FEAT0.GOOD (R157). -/
def State.good (s : State) : Nat :=
  allVats.foldl (fun n v => n + ({ s.vat v with lmask := (s.vat v).gmask }).live) 0

/-- The all-engine sustained clock and the TDP of the part (R2). -/
def State.allclk (s : State) : Nat := if s.dev.part = 18 then 1800 else 1600
/-- The TDP of the part (R2). -/
def State.tdp (s : State) : Nat := if s.dev.part = 18 then 370 else 310

/-- FEAT0 to FEAT7 as a vat's engines see them outside transactions (R157). -/
def State.feat (s : State) (v n : Nat) : W64 :=
  match n with
  | 0 => BitVec.ofNat 64 (s.dev.part * 2 ^ 56 + 2 ^ 48 + 64 * 2 ^ 40 + 18 * 2 ^ 32 + s.good * 2 ^ 21 + s.live * 2 ^ 10)
  | 1 => BitVec.ofNat 64 (s.allclk * 2 ^ 48 + 1200 * 2 ^ 32 + 1800 * 2 ^ 16 + 25 * 2 ^ 8)
  | 2 => BitVec.ofNat 64 (2 ^ 56 + 2 ^ 48 + 3 * 2 ^ 32 + 7 * 2 ^ 37 + s.via.fw.urom * 2 ^ 16 + s.via.fw.upatch)
  | 3 => BitVec.ofNat 64 (32 * 2 ^ 56 + 32 * 2 ^ 48 + 64 * 2 ^ 40 + 2 * 2 ^ 32 + 2048 * 2 ^ 20 + 64 * 2 ^ 13 +
      32 * 2 ^ 7 + 32)
  | 4 => BitVec.ofNat 64 ((s.vat v).gmask.toNat * 2 ^ 46 + (s.vat v).lmask.toNat * 2 ^ 28)
  | 5 => BitVec.ofNat 64 (2048 * 2 ^ 48 + 512 * 2 ^ 32 + 16384 * 2 ^ 16 + 16 * 2 ^ 8)
  | 6 => BitVec.ofNat 64 (1048576 * 2 ^ 43 + 262144 * 2 ^ 24 + 1048576 * 2 ^ 3)
  | _ => 0

/-! ### MSI-X, events, completions -/

/-- The message address and data of a vector's table entry (R436); 0 until the host writes them (PRESUMED, log 29). -/
def Fn.vec (x : Fn) (v : Nat) : W64 × BitVec 32 := x.vecs.get v (0, 0)

/-- Whether a function makes DMA: the link is up, and its reset under R441 does not run (R441, R627). -/
def State.dmaOn (s : State) (f : Nat) : Bool := s.host.perst && s.host.linkUp && !(s.fn f).flr

/-- A message for a vector: its data sent to its address, or pending while masked (R436); none while MSI-X is off or the
function makes no DMA (R441, R627), for a message is a write by DMA. -/
def State.msix (s : State) (f vec : Nat) : State :=
  let x := s.fn f
  if !s.dmaOn f || !x.msixOn then s
  else if x.fmask || bit x.mask vec then s.modFn f fun x => { x with pend := setBit x.pend vec true }
  else s.emit (.msix f vec (x.vec vec).1.toNat (x.vec vec).2)

/-- One event written into one function's event ring (R434), and whether the host refused the write, which stops the ring
with RINGERR (R427, R435, log 29). -/
def State.eventTo (s : State) (code : Nat) (data : List Byte) (f : Nat) : State × Bool :=
  let x := s.fn f
  if !bit x.evqCtl 0 || !bit x.evqCtl (40 + code / 256 % 8) || !s.dmaOn f then (s, false)
  else
    let size := 2 ^ fld x.evqCtl 19 16
    if (x.evqPi + 1) % size = x.evqCi % size then (s.modFn f fun x => { x with stat := satFld x.stat 63 32 1 }, false)
    else
      let entry := toBytes 2 code ++ [if x.evqPhase then 0x80 else 0, 0] ++ toBytes 6 s.trn.turn ++
        toBytes 2 s.trn.tick ++ List.replicate 4 0 ++ slice data 0 16
      let s := s.emit (.dma f (x.evqBase.toNat + 32 * x.evqPi) entry)
      if Config.evqRefused f x.evqPi entry then
        (s.modFn f fun x => { x with evqCtl := setBit x.evqCtl 0 false, stat := setBit x.stat 2 true }, true)
      else
        let s := s.modFn f fun x =>
          { x with evqPi := (x.evqPi + 1) % size, evqPhase := if x.evqPi + 1 = size then !x.evqPhase else x.evqPhase }
        (if bit x.evqCtl 1 then s.msix f (fld x.evqCtl 13 8) else s, false)

/-- An event to every function that takes its class; an event ring that stops is an event in turn (R434, R435). The number
bounds how many may stop. -/
def State.eventN : Nat → State → Nat → List Byte → State
  | 0, s, _, _ => s
  | k + 1, s, code, data => (List.range 8).foldl (fun s f =>
      let r := s.eventTo code data f
      if r.2 then State.eventN k r.1 0x0601 [BitVec.ofNat 8 f, 0xFF] else r.1) s

/-- An event (R434, R435): at most eight event rings can stop. -/
def State.event (s : State) (code : Nat) (data : List Byte) : State := State.eventN 9 s code data

/-- A ring of a function. -/
def Fn.ring (x : Fn) (n : Nat) : Ring := x.rings.get n {}

/-- RING_CTL, its reset value naming vector 1 + n (R428). -/
def Ring.ctlOf (r : Ring) (n : Nat) : W64 := r.ctl.getD (BitVec.ofNat 64 ((1 + n) * 2 ^ 8 + 2))

/-- MBX_CTL, its reset value naming vector 9 + (m mod 55) (R425). -/
def Mbx.ctlOf (m : Mbx) (n : Nat) : W64 := m.ctl.getD (BitVec.ofNat 64 (0x80 + 9 + n % 55))

/-- The state with one ring changed. -/
def State.modRing (s : State) (f n : Nat) (g : Ring → Ring) : State :=
  s.modFn f fun x => { x with rings := x.rings.put n (g (x.ring n)) }

/-- The state with one mailbox changed. -/
def State.modMbx (s : State) (f m : Nat) (g : Mbx → Mbx) : State :=
  s.modFn f fun x => { x with mbx := x.mbx.put m (g (x.mbx.get m {})) }

/-- QUIESCED kept at (EN is 0 and INFLT is 0) (R428, R432). -/
def Ring.settle (r : Ring) (n : Nat) : Ring :=
  { r with stat := setBit r.stat 0 (!bit (r.ctlOf n) 0 && decide (fld r.stat 15 8 = 0)) }

/-- The commands of a ring that are accepted and not fetched are lost with the ring (R432). -/
def Ring.stop (r : Ring) (n : Nat) : Ring :=
  Ring.settle { r with ctl := some (setBit (r.ctlOf n) 0 false), order := r.order.take (fld r.stat 15 8) } n

/-- A failed fetch or a refused completion write (R432): its bit of RING_STAT, EN cleared, RINGERR, and the Ring Error
event. -/
def State.ringError (s : State) (f n err : Nat) : State :=
  let s := s.modRing f n fun r => Ring.stop { r with stat := setBit r.stat err true } n
  let s := s.modFn f fun x => { x with stat := setBit x.stat 2 true }
  s.event 0x0601 [BitVec.ofNat 8 f, BitVec.ofNat 8 n]

/-- Completions of a ring written in command order while the completion ring has room (R431, R433); whether the host
refuses a write is open (log 4). -/
def State.flushRing (f n : Nat) : Nat → State → State
  | 0, s => s
  | k + 1, s =>
    let r := (s.fn f).ring n
    match r.order with
    | [] => s
    | id :: rest => match r.held.find? (fun p => p.1 = id) with
      | none => s
      | some (_, resp) =>
        let c := r.ctlOf n
        let size := 2 ^ fld c 23 20
        if (r.cqPi + 1) % size = r.cqCi % size then s
        else
          let resp := putAt resp 2 [if r.phase then 0x80 else 0]
          let s := s.emit (.dma f (r.cqBase.toNat + 64 * r.cqPi) resp)
          let un := r.unannounced + 1
          let now := fld c 55 48 = 0 || decide (max 1 (fld c 63 56) ≤ un)
          let s := s.modRing f n fun r => Ring.settle { r with
            order := rest, held := r.held.filter (fun p => p.1 ≠ id), cqPi := (r.cqPi + 1) % size,
            phase := if r.cqPi + 1 = size then !r.phase else r.phase,
            fetched := r.fetched - 1, stat := setFld r.stat 15 8 (fld r.stat 15 8 - 1),
            unannounced := if now then 0 else un } n
          let s := if now && bit c 1 then s.msix f (fld c 13 8) else s
          State.flushRing f n k (if Config.cqRefused id then s.ringError f n 3 else s)

/-- The response of a command (R424). -/
def State.response (s : State) (status tag : Nat) (result : List Byte) : List Byte :=
  toBytes 2 status ++ [0, 0] ++ toBytes 4 tag ++ toBytes 8 s.trn.turn ++ slice result 0 48

/-- The records CMD_STATUS reads with one more (R451): of each function the last 256 completed commands are kept, and beside
them the last 256 that were discarded (STATE 4). -/
def addRec (l : List Rec) (r : Rec) : List Rec :=
  let same (x : Rec) : Bool := decide (x.fn = r.fn) && (decide (x.state = 4) == decide (r.state = 4))
  r :: l.filter (fun x => !same x) ++ (l.filter same).take 255

/-- A command ends: its record, and its response to the mailbox or ring unless its function was reset (R424, R426, R431,
R441). RESULT holds response bytes 16 on. -/
def State.deliver (s : State) (c : Cmd) (mute : Bool) (status : Nat) (result : List Byte) : State :=
  let tag := numAt c.bytes 4 4
  let s := s.modVia fun v => { v with recs := addRec v.recs ⟨c.id, c.fn, c.source, tag, 3, status, slice result 0 44⟩ }
  if mute then s
  else
    let resp := s.response status tag result
    if c.source < 64 then
      let s := s.modMbx c.fn c.source fun m => { m with rsp := resp, stat := setFld m.stat 2 0 3 }
      let ctl := ((s.fn c.fn).mbx.get c.source {}).ctlOf c.source
      if bit ctl 7 then s.msix c.fn (fld ctl 5 0) else s
    else
      let n := c.source - 64
      State.flushRing c.fn n 16 (s.modRing c.fn n fun r => { r with held := r.held ++ [(c.id, resp)] })

/-- The command of a running slot ends (R437, R438). -/
def State.complete (s : State) (k : Nat) (status : Nat) (result : List Byte) : State :=
  match s.via.runs.find k with
  | none => s
  | some r => (s.modVia fun v => { v with runs := v.runs.drop k }).deliver r.cmd r.mute status result

/-- STATUS values (R445). -/
def stDone : Nat := 0x0000
def stPartial : Nat := 0x0001
def stBadCode : Nat := 0x0101
def stMalformed : Nat := 0x0102
def stNotPermitted : Nat := 0x0103
def stMode : Nat := 0x0104
def stRange : Nat := 0x0105
def stState : Nat := 0x0106
def stTurn : Nat := 0x0107
def stVerify : Nat := 0x0108
def stAuth : Nat := 0x0109
def stDmaRead : Nat := 0x010A
def stDmaWrite : Nat := 0x0201
def stAborted : Nat := 0x0202
def stMedia : Nat := 0x0203

/-- The codes marked Q in the command tables (R447, R449). -/
def isQ (code : Nat) : Bool :=
  [0x0001, 0x0004, 0x0006, 0x0103, 0x0305, 0x0502, 0x0704, 0x0800, 0x0801, 0x0A00].contains code

/-- CODE of a command (R423). -/
def Cmd.code (c : Cmd) : Nat := numAt c.bytes 0 2

/-! ### Status registers with fields that follow other state -/

/-- The first batch a peek does not see (R91): its own turn − 1, or in the first two turns every batch from the first
turn on, so that it reads the ledger as RUN found it. -/
def State.snapOf (s : State) (t : Tx) : Nat := if t.turn ≤ s.trn.start + 1 then s.trn.start else t.turn - 1

/-- Whether a peek of a turn is held (R92): batch turn − 2, or an earlier one, is not released. Peeks of the first two
turns read the ledger as it stood when RUN was set (R91). -/
def State.heldTurn (s : State) (turn : Nat) : Bool :=
  decide (s.trn.start + 1 < turn) && s.prs.batches.any fun b => decide (b.1 + 2 ≤ turn)

/-- Whether the Turner issues ticks: RUN is 1 and the first tick 0 has begun. -/
def State.ticking (s : State) : Bool := bit s.trn.status 0

/-- How many peeks are held (R104). -/
def State.peeksHeld (s : State) : Nat :=
  (s.prs.txs.filter fun t => t.2.peek && decide (t.2.phase = .queued) && s.heldTurn t.2.turn).length

/-- Whether a batch's membership is final (R480); a batch of an earlier turn that is no longer held was released. -/
def State.isFinal (s : State) (n : Nat) : Bool :=
  (s.prs.batches.find n).elim (decide (n < s.trn.turn)) Batch.final

/-- Whether every posting of a batch has committed. -/
def State.isComplete (s : State) (n : Nat) : Bool :=
  s.isFinal n && !(s.prs.txs.any fun p => !p.2.peek && decide (p.2.turn = n))

/-- The versions that an admitted peek may still read, or that a late-decided one may (R93). -/
def State.versionsKept (s : State) : List (Nat × Bytes) :=
  s.prs.versions.filter fun p =>
    decide (s.prs.relBatch.getD 0 ≤ p.1) || s.prs.txs.any fun t => t.2.peek && decide (s.snapOf t.2 ≤ p.1)

/-- Lines of the version store that the release of a batch would need beyond what running peeks leave free (R93). -/
def State.vsShort (s : State) (b : Batch) : Bool :=
  let used := s.prs.versions.foldl (fun n p =>
    if s.prs.txs.any fun t => t.2.peek && decide (s.snapOf t.2 ≤ p.1) then n + (linesOf p.2).length else n) 0
  decide (fld s.prs.cap 39 24 * 2 ^ 14 < used + (linesOf b.staged).length)

/-- The batch that is due at this tick or was earlier, once the release point of the turn is over (R95, R101). -/
def State.dueBatch (s : State) : Option (Nat × Batch) :=
  match s.prs.batches.head? with
  | some (n, b) => if s.ticking && !s.trn.fresh && decide (n + 2 ≤ s.trn.turn) then some (n, b) else none
  | none => none

/-- PRS_STATUS.VSFULL (R93, R113): the release that is due waits for version-store space. -/
def State.vsFull (s : State) : Bool := s.dueBatch.elim false fun b => s.isComplete b.1 && s.vsShort b.2

/-- PRS_STATUS (R113). -/
def State.prsStatus (s : State) : W64 :=
  setFld (setFld (setBit (setBit s.prs.status 3 (decide (0 < s.peeksHeld))) 4 s.vsFull) 63 16 (s.prs.relBatch.getD 0))
    15 12 (min 8 s.prs.batches.length)

/-! ### The cave log (R605 to R609) -/

/-- The state with the cave log changed; while VDD_AON is low it is held in reset and nothing changes it (R630). -/
def State.caveOn (s : State) (f : Cave → Cave) : State := if s.dev.aon then s.modCave f else s

/-- A first-failure area with bytes put in. -/
def areaPut (a : Bytes) (off : Nat) (l : List Byte) : Bytes := writeBytes a off l

/-- A context block of the capture (R609). -/
def ctxBlock (kind : Nat) (body : List Byte) : List Byte :=
  toBytes 2 kind ++ toBytes 2 body.length ++ List.replicate 4 0 ++ padTo 8 body

/-- The state blocks of every capture: TRN_STATUS, PRS_STATUS, ADM_STATUS, and VF_STAT of all vats (R609). -/
def State.captureBlocks (s : State) : List Byte :=
  ctxBlock 4 (toBytes 8 s.trn.status.toNat ++ toBytes 8 s.prsStatus.toNat ++ toBytes 8 s.itk.status.toNat) ++
  ctxBlock 5 ((allVats.map fun v => toBytes 8 (s.vat v).vfStat.toNat).flatten)

/-- The record types that are captured: Boot Failure, Engine Stop, map-out and the causes of Safe Hold (R609). -/
def captures (type : Nat) (cause : Bool) : Bool := [0x8002, 0x0301, 0x0302].contains type || cause

/-- The bytes of a record (R606). -/
def State.record (s : State) (type unit slot : Nat) (data : List Byte) : List Byte :=
  withCrc (toBytes 6 s.cave.rseq ++ toBytes 2 (s.cave.cold + s.cave.warm) ++ toBytes 2 type ++
    [BitVec.ofNat 8 s.dev.mode, 0] ++ toBytes 6 s.trn.turn ++ toBytes 2 s.trn.tick ++
    [BitVec.ofNat 8 unit, BitVec.ofNat 8 slot, 0, 0] ++ slice data 0 36)

/-- A cave record written, or counted when its TYPE has used its 256 in this second (R607), the first 15 boot records
and the capture put into the first-failure area (R609). While VDD_AON is low the
log is held in reset (R630). -/
def State.caveCtx (s : State) (type unit slot : Nat) (data : List Byte) (cause : Bool) (ctx : List Byte) : State :=
  let n := s.cave.per.get type 0
  if !s.dev.aon then s
  else if 256 ≤ n && type ≠ 0x80FF then
    s.modCave fun c => { c with lost := c.lost.put type (c.lost.get type 0 + 1) }
  else
    let r := s.record type unit slot data
    let blocks := ctx ++ s.captureBlocks
    s.modCave fun c =>
      let c := { c with
        ring := c.ring.put (c.rseq % 16384) r, rseq := c.rseq + 1, per := c.per.put type (n + 1) }
      let c := if (type = 0x8001 || type = 0x8002) && c.nrec < 15 then
          { c with cur := areaPut c.cur (0x40 + 64 * c.nrec) r, nrec := c.nrec + 1 } else c
      if captures type cause && !c.capv then
        let hd := readBytes c.cur 0 60
        let hd := putAt hd 16 [1]
        { c with capv := true,
                 cur := areaPut (areaPut (areaPut c.cur 0x400 r) 0x440 (blocks.take 0xBC0)) 0 (withCrc hd) }
      else c

/-- A cave record that is not a cause of Safe Hold. -/
def State.caveRec (s : State) (type unit slot : Nat) (data : List Byte) : State := s.caveCtx type unit slot data false []

/-! ### Modes (R558, R559) -/

/-- GPIO8 and GPIO9 as the image drives them (R617). -/
def gpioOf (m : Nat) : Bool × Bool := (decide (m = 9), m = 4 || m = 5 || m = 8)

/-- A mode change: the record, the event and, from an image that runs, the pins (R558, R608, R617). cause: 0 command, 1
automatic, 2 reset. -/
def State.setMode (s : State) (m cause : Nat) : State :=
  let old := s.dev.mode
  let s := s.modDev fun d => { d with mode := m, prev := old }
  let s := s.caveRec 0x0001 0xFF 0xFF [BitVec.ofNat 8 old, BitVec.ofNat 8 m, BitVec.ofNat 8 cause]
  let s := s.event 0x0001 [BitVec.ofNat 8 old, BitVec.ofNat 8 m]
  if s.via.fw.hostLoad && !s.via.fw.started then s
  else
    let s := if (gpioOf old).1 = (gpioOf m).1 then s else s.emit (.gpio 8 (gpioOf m).1)
    if (gpioOf old).2 = (gpioOf m).2 then s else s.emit (.gpio 9 (gpioOf m).2)

/-- Whether a divide, a string-class operation or a bundle whose loads wait is in progress on an engine (R390). -/
def Eng.long (g : Eng) : Bool := g.dd.isSome || g.df.isSome || g.str.isSome || g.missing.isSome

/-- The device mode that an engine goes by (R390): a change takes effect at its next boundary with nothing in progress. -/
def State.modeAt (s : State) (e : Nat) : Nat := if (s.eng e).long then (s.eng e).seen else s.dev.mode

/-- Whether an engine abandons long operations: every mode but Prime, Recovery and Test-Open (R379). -/
def State.serviceMode (s : State) (e : Nat) : Bool :=
  !(s.modeAt e = 1 || s.modeAt e = 10 || s.modeAt e = 11)

/-- Whether a mode is in M4, M5, M6 or M8 (the set run of R449). -/
def modeRun (m : Nat) : Bool := m = 4 || m = 5 || m = 6 || m = 8

/-! ### Memory and regions (R23 to R30) -/

/-- One byte of physical memory. -/
def State.rd (s : State) (a : Nat) : Byte := readByte s.mem.bytes a

/-- n bytes of physical memory. -/
def State.rdN (s : State) (a n : Nat) : List Byte := readBytes s.mem.bytes a n

/-- Whether a store lies on a line of a range. -/
def Late.meets (x : Late) (a n : Nat) : Bool := decide (a / 64 ≤ x.pa / 64) && decide (x.pa / 64 ≤ (a + n - 1) / 64)

/-- Stores become performed with respect to a vat (R345 to R347): those that a test names, and with each the earlier ones of
its engine and of its line. The answer is what is left and what became performed. -/
def landFor (v : Nat) (p : Late → Bool) : List Late → List Late × List Late
  | [] => ([], [])
  | x :: l =>
    let r := landFor v p l
    if bit x.unseen v && (p x || r.2.any fun y => y.eng = x.eng || y.pa / 64 = x.pa / 64) then
      let x1 := { x with unseen := setBit x.unseen v false }
      (if x1.unseen = 0 then r.1 else x1 :: r.1, x :: r.2)
    else (x :: r.1, r.2)

/-- Stores become performed with respect to every vat (R349). -/
def landAllFor (p : Late → Bool) (l : List Late) : List Late := allVats.foldl (fun l v => (landFor v p l).1) l

/-- Bytes written to physical memory, with respect to every vat at once; a line overwritten whole is no longer poisoned
(R529). -/
def State.wr (s : State) (a : Nat) (l : List Byte) : State :=
  s.modMem fun m =>
    { m with
      bytes := writeBytes m.bytes a l
      late := landAllFor (fun x => x.meets a l.length) m.late
      poison := m.poison.filter fun p => !(decide (a ≤ 64 * p) && decide (64 * p + 64 ≤ a + l.length)) }

/-- Bytes that an engine's store writes into its vat store (R340, R346, R347): its vat, which now holds the line, sees them
at once, every other vat later. -/
def State.wrBy (s : State) (e a : Nat) (l : List Byte) : State :=
  s.modMem fun m =>
    { m with
      bytes := writeBytes m.bytes a l
      late := (landFor (vatOf e) (fun x => x.meets a l.length) m.late).1 ++
        [⟨e, a, readBytes m.bytes a l.length, setBit 0xFFFFFFFFFFFFFFFF (vatOf e) false⟩]
      poison := m.poison.filter fun p => !(decide (a ≤ 64 * p) && decide (64 * p + 64 ≤ a + l.length)) }

/-- One byte as a vat sees it (R344, R347): before the oldest store of it that is not performed there, or as memory is. -/
def State.seen (s : State) (v a : Nat) : Byte :=
  match s.mem.late.find? (fun x => bit x.unseen v && decide (x.pa ≤ a) && decide (a < x.pa + x.old.length)) with
  | some x => x.old.getD (a - x.pa) 0
  | none => s.rd a

/-- n bytes as a vat sees them. -/
def State.seenN (s : State) (v a n : Nat) : List Byte := (List.range n).map fun i => s.seen v (a + i)

/-- How far the stores of other vats have come to a vat when it reads (R347): which one of those it has not seen becomes
performed there, if any, is open (log 4). -/
def State.learn (s : State) (v : Nat) : State :=
  match s.mem.late.filter (fun x => bit x.unseen v) with
  | [] => s
  | l => match l[Config.freeNat s.fresh % (l.length + 1)]? with
    | none => s.draw
    | some x => (s.modMem fun m => { m with late := (landFor v (fun y => y = x) m.late).1 }).draw

/-- The stores of an engine become performed with respect to every engine and the CP (R348). -/
def State.landOwn (s : State) (e : Nat) : State :=
  s.modMem fun m => { m with late := landAllFor (fun x => x.eng = e) m.late }

/-- What SY.t.syncm waits for (R349): the stores of the engine, and those its loads can have taken a value from, are performed
with respect to every engine and the CP. -/
def State.landSeen (s : State) (e : Nat) : State :=
  s.modMem fun m => { m with late := landAllFor (fun x => x.eng = e || !bit x.unseen (vatOf e)) m.late }

/-- How many units of a list are in error. -/
def unitsBad (l : List Nat) : Nat := l.eraseDups.length

/-- Whether the code of a line corrects its errors (R526): one symbol in each half-line of HBM3, one x4 device or one half of a x8
device in DDR5. -/
def eccCorrects (hbm : Bool) (x : Ecc) : Bool :=
  if hbm then decide (unitsBad x.lo ≤ 1) && decide (unitsBad x.hi ≤ 1) else decide (unitsBad (x.lo ++ x.hi) ≤ 1)

/-- The first byte of the DDR5 window (R23). -/
def ddrBase : Nat := 0x020000000000

/-- Whether an address is populated HBM3. -/
def isHbm (a : Nat) : Bool := decide (a < 2 ^ 36)

/-- Whether an address is populated DDR5 (R24). -/
def State.isDdr (s : State) (a : Nat) : Bool :=
  decide (ddrBase ≤ a) && decide (a < ddrBase + s.mem.ddrGib * 2 ^ 30)

/-- Whether an address is in device space (R23). -/
def isDevice (a : Nat) : Bool := decide (0xF00000000000 ≤ a)

/-- The base of a region window (R25). -/
def rgnBase (w : W64) : Nat := fld w 38 12 * 2 ^ 21

/-- The size of a region window. -/
def rgnSize (w : W64) : Nat := (fld w 63 44 + 1) * 2 ^ 21

/-- Whether a valid window holds an address. -/
def inRgn (w : W64) (a : Nat) : Bool :=
  bit w 0 && decide (rgnBase w ≤ a) && decide (a < rgnBase w + rgnSize w)

/-- Where an address lies, in the order of R29. -/
inductive Region where
  | device | firmware | ledger | plain | none_
  deriving DecidableEq, Repr

/-- The region of an address (R29). -/
def State.region (s : State) (a : Nat) : Region :=
  if isDevice a then .device
  else if inRgn s.via.rgnFwh a || inRgn s.via.rgnFwd a then .firmware
  else if inRgn s.via.rgnLdg a then .ledger
  else if isHbm a || s.isDdr a then .plain
  else .none_

/-- The wheel of a ledger address (R27). -/
def State.wheelOf (s : State) (a : Nat) : Nat := (a - rgnBase s.via.rgnLdg) / 2 ^ 21

/-- The home map byte of a wheel (R114, R115). -/
def State.homeByte (s : State) (w : Nat) : Byte := s.prs.home.get w (BitVec.ofNat 8 (w % 64))

/-- The home vat of a ledger address. -/
def State.homeVat (s : State) (a : Nat) : Nat := (s.homeByte (s.wheelOf a)).toNat % 64

/-- The home vat of a line outside the ledger window (R20 rule 2): the XOR of six fields of its address. -/
def xorHome (a : Nat) : Nat := [17, 23, 29, 35, 41, 47].foldl (fun h i => Nat.xor h (a / 2 ^ (i - 5) % 64)) 0

/-- The home vat of any line (R20). -/
def State.lineHome (s : State) (a : Nat) : Nat := if inRgn s.via.rgnLdg a then s.homeVat a else xorHome a

/-- Released bytes not yet written back whose address a test names, written (R95 step 3). -/
def State.writeBackAt (s : State) (p : Nat → Bool) : State :=
  let s1 := s.prs.back.foldl (fun s c => if p c.1 then s.wr c.1 [c.2] else s) s
  s1.modPrs fun x => { x with back := x.back.filter fun c => !p c.1 }

/-- Released bytes not yet written back, written at the homes a test names. -/
def State.writeBack (s : State) (p : Nat → Bool) : State := s.writeBackAt fun a => p (s.homeVat a)

/-- A slice's release mark for a batch (R134). -/
def relMark (v batch lines : Nat) : List Byte :=
  withCrc (toBytes 2 2 ++ [BitVec.ofNat 8 v, 0] ++ toBytes 6 batch ++ toBytes 4 lines ++ List.replicate 14 0)

/-- The line records of a batch in a section. -/
def Section.lines (x : Section) (batch : Nat) : List (List Byte) :=
  (x.recs.map Prod.snd).filter fun r => numAt r 0 2 = 1 && numAt r 4 6 = batch

/-- The records of a section, oldest first. -/
def Section.all (x : Section) : List (List Byte) := x.recs.map Prod.snd

/-- Where a record of a given alignment would begin in a section (R134). -/
def Section.next (x : Section) (align : Nat) : Nat := (x.top + align - 1) / align * align

/-- A record written at the end of a section, at its alignment (R134). -/
def Section.put (x : Section) (align : Nat) (r : List Byte) : Section :=
  let at_ := x.next align
  { top := at_ + r.length, recs := x.recs ++ [(at_, r)] }

/-- The bytes of a section from its oldest record to the end of a given number of line records more, with the gaps that
alignment leaves. -/
def Section.span (x : Section) (lines : Nat) : Nat :=
  x.next 128 + 128 * lines - (x.recs.head?.elim (x.next 128) Prod.fst)

/-- A section without the records a test names; the freed space is what lies before the oldest one left (R135). -/
def Section.drop (x : Section) (p : List Byte → Bool) : Section := { x with recs := x.recs.filter fun r => !p r.2 }

/-- A slice writes the release mark of the last released batch, unless it has (R95 step 4, R134). -/
def State.markSlice (s : State) (v : Nat) : State :=
  match s.prs.relBatch with
  | none => s
  | some n =>
    if s.prs.marks.contains v then s
    else s.modPrs fun x =>
      let l := x.clog.get v {}
      { x with clog := x.clog.put v (l.put 32 (relMark v n (l.lines n).length)), marks := v :: x.marks }

/-- When all 64 slices have marked the batch, its release is durable and its line records' space is freed (R135). The
marks stay until a later batch is durable. -/
def State.freeDurable (s : State) : State :=
  match s.prs.relBatch with
  | none => s
  | some n =>
    if allVats.all fun v => s.prs.marks.contains v then
      s.modPrs fun x => { x with clog := x.clog.map fun p =>
        (p.1, p.2.drop fun r => decide (numAt r 4 6 < n) || (numAt r 0 2 = 1 && numAt r 4 6 = n)) }
    else s

/-- A release completes its write-back and its marks (R95 steps 3 and 4). -/
def State.finishRelease (s : State) : State :=
  (allVats.foldl (fun s v => s.markSlice v) (s.writeBack fun _ => true)).freeDurable

/-! ### Memory errors (R529) -/

/-- The lines in which a step finds an uncorrectable error (R526, R529); errors in more units than R526 names are taken as
detected (log 40). -/
def ueLines (v : Env) : List Nat := (v.errs.filter fun x => !eccCorrects (isHbm x.1) x.2).map Prod.fst

/-- The lines in which a step finds an error that is corrected (R526, R529). -/
def ceLines (v : Env) : List Nat :=
  (v.errs.filter fun x => eccCorrects (isHbm x.1) x.2 && decide (x.2 ≠ {})).map Prod.fst

/-- The HBM3 stack of an address (R522). -/
def hbmStack (a : Nat) : Nat := Nat.xor (a / 2 ^ 8 % 4) (a / 2 ^ 20 % 4)

/-- The channel of an HBM3 address within its stack (R522). -/
def hbmChannel (a : Nat) : Nat := Nat.xor (a / 2 ^ 10 % 16) (a / 2 ^ 22 % 16)

/-- The pseudo-channel of an HBM3 address (R522). -/
def hbmPseudo (a : Nat) : Nat := a / 2 ^ 14 % 2

/-- Where a request for an HBM3 address leaves the mesh (R522): whether on the north edge, and the column. -/
def hbmEdge (a : Nat) : Bool × Nat := (decide (hbmStack a < 2), 4 * (hbmStack a % 2) + hbmChannel a % 4)

/-- The DDR5 channel of an address (R523). -/
def ddrChannel (a : Nat) : Nat := Nat.xor ((a - ddrBase) / 2 ^ 8 % 8) ((a - ddrBase) / 2 ^ 16 % 8)

/-- The address within the DDR5 channel (R523). -/
def ddrChanAddr (a : Nat) : Nat := 256 * ((a - ddrBase) / 2048) + (a - ddrBase) % 256

/-- The slot of the DIMM that holds a DDR5 address, with dpc DIMMs in each channel (R523). -/
def ddrSlot (dpc a : Nat) : Nat := if dpc = 2 then ddrChanAddr a / 2 ^ 13 % 2 else 0

/-- The controller of an address: 0 to 3 HBM3 stacks, 4 to 11 DDR5 channels (R522, R523). -/
def mcOf (a : Nat) : Nat := if isHbm a then hbmStack a else 4 + ddrChannel a

/-- The state with one controller changed. -/
def State.modMc (s : State) (i : Nat) (f : Mc → Mc) : State :=
  s.modMem fun m => { m with mcs := m.mcs.put i (f (m.mcs.get i {})) }

/-- An uncorrectable error is recorded: MC_STAT.UE, MC_UE_COUNT, MC_UE_PA and a Memory Error record (R529, R608). -/
def State.ueRecord (s : State) (pa finder : Nat) (safe : Bool) : State :=
  let i := mcOf pa
  let s := s.modMc i fun m => { m with
    stat := setBit m.stat 5 true, ue := satAdd m.ue 1, uePa := setFld m.uePa 47 6 (pa / 64) }
  let m := s.mem.mcs.get i {}
  s.caveCtx 0x8005 0xFF 0xFF ([if i < 4 then 1 else 2, BitVec.ofNat 8 (if i < 4 then i else i - 4),
    BitVec.ofNat 8 finder, if safe then 1 else 0] ++ toBytes 6 pa) safe
    (ctxBlock 3 (toBytes 8 m.stat.toNat ++ toBytes 8 m.uePa.toNat))

/-- A partial store by the control processor: to a line with an uncorrectable error it is an uncorrectable error of that store,
which writes nothing (R529). -/
def State.cpPut (s : State) (pa : Nat) (l : List Byte) : State :=
  if s.mem.poison.contains (pa / 64) then s.ueRecord pa 4 false else s.wr pa l

/-- Bytes as the control processor reads them: open on a line with an uncorrectable error (R529, log 4). -/
def State.cpRead (s : State) (pa n : Nat) : List Byte :=
  (List.range n).map fun i =>
    if s.mem.poison.contains ((pa + i) / 64) then Config.poisoned s.fresh (pa + i) else s.rd (pa + i)

/-- The uncorrectable errors that the control processor finds when it reads frames (R529): one for each such line. -/
def State.cpErrors (s : State) (frames : List Nat) : State :=
  (s.mem.poison.filter fun l => frames.contains (l / 64)).foldl (fun s l => s.ueRecord (64 * l) 4 false) s

/-- The errors that the accesses of a step find and correct, by line: each is counted and sets MC_STAT.CE (R529). -/
def State.corrected (s : State) (l : List Nat) : State :=
  l.foldl (fun s a =>
    if isHbm a || s.isDdr a then s.modMc (mcOf a) fun m => { m with stat := setBit m.stat 4 true, ce := satAdd m.ce 1 }
    else s) s

/-- Whether a line holds an uncorrectable error: found now, or poisoned (R529). -/
def State.bad (s : State) (ue : List Nat) (pa : Nat) : Bool :=
  s.mem.poison.contains (pa / 64) || ue.any fun a => a / 64 = pa / 64

/-! ### Engines: store buffer, reset, abandoning an attempt -/

/-- The oldest store-buffer entry written into the vat store (R354, R340, R347), or to a device with respect to every
engine (R348); an entry on a poisoned line is a store write error: it is not written and the asynchronous machine check
becomes pending (R361, R394, R529). -/
def State.sbWrite (s : State) (e : Nat) : State :=
  match (s.eng e).mem.sbuf with
  | [] => s
  | x :: rest =>
    let s1 := s.modEng e fun g => { g with mem := { g.mem with sbuf := rest } }
    if s.mem.poison.contains (x.pa / 64) then
      (s1.ueRecord x.pa 0 false).modEng e fun g => { g with amc := some x.va }
    else if x.device then s1.wr x.pa x.bytes
    else s1.wrBy e x.pa x.bytes

/-- Every store-buffer entry written (R361). -/
def State.sbDrain (s : State) (e : Nat) : State :=
  (List.range (s.eng e).mem.sbuf.length).foldl (fun s _ => s.sbWrite e) s

/-- The engine with every register at reset; local SRAM, scratch store, patch RAM and the VCS fields stay (R580). -/
def Eng.reset (g : Eng) : Eng :=
  { mem := { scratch := g.mem.scratch, sram := g.mem.sram }, mode := g.mode, hold := g.hold, rsvwr := g.rsvwr,
    sramAddr := g.sramAddr, rn := { g.rn with stat := setBit g.rn.stat 0 false } }

/-- The state with one transaction changed. -/
def State.modTx (s : State) (k : Nat) (f : Tx → Tx) : State :=
  match s.prs.txs.find k with
  | none => s
  | some t => s.modPrs fun p => { p with txs := p.txs.put k (f t) }

/-- The attempt of a transaction leaves nothing and the transaction waits for dispatch again (R78, R81). -/
def Tx.again (t : Tx) : Tx := { t with phase := .queued, reads := [], writes := [], wrote := [], outcome := 0, result := [], acked := false }

/-- An attempt's end on its engine (R204): the ESW of the wait, registers 0, both port sets clear, at the resume
offset. The pending value of a synchronising register stays pending but for ESW's (R166, log 16). -/
def Eng.endAttempt (g : Eng) (a : Attempt) : Eng :=
  { g with
    t := List.replicate 32 0, p := 1, b := List.replicate 8 0, pc := a.back.resume, prog := {}, hand := {}, hset := false,
    dd := none, df := none, str := none, missing := none, imp := none, att := none, drained := g.drain,
    sync := g.sync.filter fun p => decide (p.1 ≠ 0), mem := { g.mem with early := [] }
    cr := { g.cr with esw := a.back.esw, ls := 0, le := 0, lc := 0, ssrc := 0, sdst := 0, scnt := 0, saux := 0 } }

/-- The engine's attempt is abandoned by a stop or reset: its transaction is dispatched again, and the engine stop is
counted when it is one (R78, R403). Whether the third stop has come is the second answer. -/
def State.dropAttempt (s : State) (e : Nat) (stop : Bool) : State × Bool :=
  match (s.eng e).att with
  | none => (s, false)
  | some a =>
    let n := ((s.prs.txs.find a.key).map Tx.stops).getD 0 + 1
    ((s.modTx a.key fun t => { t.again with stops := if stop then n else t.stops }).modEng e
      fun g => { g with att := none }, stop && decide (3 ≤ n))

/-- Engine reset (R574, R361): the store buffer is written, then every register is lost. -/
def State.resetEng (s : State) (e : Nat) : State := ((s.sbDrain e).dropAttempt e false).1.modEng e Eng.reset

/-! ### Rails (R538 to R543) -/

/-- A rail. -/
def State.rail (s : State) (k : Nat) : Rail := s.pwr.rails.get k {}

/-- The state with one row rail changed. -/
def State.modRail (s : State) (row : Nat) (f : Rail → Rail) : State :=
  s.modPwr fun p => { p with rails := p.rails.put row (f (p.rails.get row {})) }

/-- The vats of a row (R15). -/
def rowVats (row : Nat) : List Nat := (List.range 8).map fun c => 8 * row + c

/-- A need: the voltage asked for, rounded up to a multiple of 5 mV (R541, log 22). -/
def roundNeed (mv : Nat) : Nat := (mv + 4) / 5 * 5

/-- A vat's TRIM below a row voltage, in steps of 5 mV that leave its supply at its need or above, and its supply (R541). -/
def Vat.trimTo (x : Vat) (row mv : Nat) : Vat :=
  let t := min 60 ((mv - x.need) / 5 * 5)
  { x with trim := t, vfStat := setFld x.vfStat 51 40 (row - t) }

/-- A row's TRIMs for a row voltage. -/
def State.trimRow (s : State) (row mv : Nat) : State :=
  (rowVats row).foldl (fun s v => s.modVat v fun x => x.trimTo (s.rail row).mv mv) s

/-- The voltage a row is kept at: the greatest need, within VROW_MIN and VROW_MAX (R539, R541). -/
def State.rowNeed (s : State) (row : Nat) : Nat :=
  let m := (rowVats row).foldl (fun m v => max m (s.vat v).need) 0
  min (max m (fld s.pwr.avs 47 32)) (fld s.pwr.avs 31 16)

/-- The system agent keeps a row rail at its greatest need, one write at a time, and every TRIM at the row less its vat's need
(R541, R542): TRIMs first when it lowers, after the settle time when it raises, and while a write is pending as the lesser of
the two voltages allows. Nothing is written to a rail whose AVSBus failed (R543). -/
def State.adjustRow (s : State) (row : Nat) : State :=
  let r := s.rail row
  let m := s.rowNeed row
  match r.pend with
  | some p => s.trimRow row (min p r.mv)
  | none =>
    if r.bad || m = r.mv then s.trimRow row r.mv
    else
      let s := s.trimRow row (min m r.mv)
      (s.modRail row fun r => { r with pend := some m }).emit (.avs row m)

/-- Row rails that stand elsewhere are written to the boot voltage (R540, R555), as at a warm reset; the vats' own registers
are at reset. -/
def State.railsBoot (s : State) : State :=
  (List.range 8).foldl (fun s row =>
    let r := s.rail row
    if r.pend.isSome || r.bad || r.mv = 800 then s
    else (s.modRail row fun r => { r with pend := some 800 }).emit (.avs row 800)) s

/-! ### Safe Hold (R563) -/

/-- The lines of every instruction cache that a test keeps (R340, R342). -/
def State.dropCopies (s : State) (keep : Nat × List Byte → Bool) : State :=
  { s with engs := s.engs.map fun p => (p.1, { p.2 with mem := { p.2.mem with icache := p.2.mem.icache.filter keep } }) }

/-- The low state of every vat (R555, R551): 1.2 GHz, and its need that of the boot voltage, to which its row rail is brought as
R542 states. -/
def State.lowVats (s : State) : State :=
  let s := allVats.foldl (fun s v => s.modVat v fun x => { x with
    vfStat := setFld x.vfStat 63 52 1200, target := none, raise := none, need := 800 }) s
  (List.range 8).foldl (fun s row => s.adjustRow row) (s.modPwr fun p => { p with low := true })

/-- TURN_OUT driven to a level (R61, R622). -/
def State.turnOutTo (s : State) (b : Bool) : State :=
  if s.dev.turnOut = b then s else (s.modDev fun d => { d with turnOut := b }).emit (.turnOut b)

/-- RUN cleared: ticks stop, and with them lock, slewing and holdover, and a Replay source is put back (R45, R63, R64).
Step credits that are left stay (log 26). -/
def State.stopTurns (s : State) : State :=
  let s := s.turnOutTo false
  s.modTrn fun t => { t with
    ctl := setFld (setBit t.ctl 0 false) 5 4 (t.saved.getD (fld t.ctl 5 4)), saved := none,
    status := setFld (setFld t.status 3 0 0) 39 24 0, first := false, fresh := false, edge := false, rise := false, phase := none }

/-- TURN_OUT rises where its rise is due (R61). -/
def State.riseOut (s : State) : State :=
  if s.trn.rise then (s.modTrn fun t => { t with rise := false }).turnOutTo true else s

/-- The part of its effect that an aborted command has made, in the terms of its row (R445, R449): the mode entered, the
version and E, the bytes written, the moves made, FEAT0.LIVE, the TOKEN used. -/
def State.partDone (s : State) (r : Run) : List Byte :=
  let n (i k : Nat) := numAt r.cmd.bytes i k
  if !r.started then []
  else match r.cmd.code with
    | 0x0002 => if n 8 1 = 3 then [] else [BitVec.ofNat 8 (n 8 1), 3]
    | 0x0303 => toBytes 4 r.count ++ toBytes 6 (n 8 6)
    | 0x0402 => toBytes 4 (n 24 4)
    | 0x0404 => toBytes 4 r.count
    | 0x0802 => toBytes 2 s.live
    | 0x0A02 => toBytes 2 r.count
    | _ => []

/-- Running commands that are not marked Q end with ABORTED, except the one in a given slot (R449). A wheel move that has
begun goes on, with no command to wait for it (R131). -/
def State.abortRuns (s : State) (keep : Option Nat) : State :=
  s.via.runs.foldl (fun s p =>
    if keep = some p.1 || isQ p.2.cmd.code then s
    else
      (s.modPrs fun x => { x with
        moves := x.moves.filter fun m => m.slot ≠ p.1
        moving := x.moving.map fun m => (m.1, m.2.1, if m.2.2 = p.1 + 1 then 0 else m.2.2) }).complete p.1 stAborted
          (s.partDone p.2)) s

/-- The device stops turns, commits and engines and enters Safe Hold (R563). cause: the slot and TYPE of the cause
record (0xFFFF and 0 when no record precedes), none for MODE_SET M9. In Safe Hold already, nothing changes (R559). -/
def State.safeHold (s : State) (cause : Option (Nat × Nat)) (keep : Option Nat) : State :=
  if s.dev.mode = 9 || s.dev.mode = 0 then s
  else
    let s := s.stopTurns
    let s := s.modItk fun i => { i with stopped := true }
    let s := s.finishRelease
    let s := s.engs.foldl (fun s p =>
      (s.resetEng p.1).modEng p.1 fun g => { g with
        hold := true, drain := false, mode := if g.mode = .running || g.mode = .slice then .held else g.mode }) s
    let s := allVats.foldl (fun s v => s.modVat v fun x => { x with slot := none, offrot := false, back := none }) s
    let s := s.modPrs fun p => { p with status := setBit p.status 0 false }
    let s := (s.modDev fun d => { d with linkBusy := [] }).lowVats
    let s := s.abortRuns keep
    let s := s.modVia fun v => { v with stage := none }
    let s := match cause with
      | some (i, t) => s.caveRec 0x0002 0xFF 0xFF (toBytes 2 i ++ toBytes 2 t ++ [0])
      | none => s.caveRec 0x0002 0xFF 0xFF (toBytes 2 0xFFFF ++ toBytes 2 0 ++ [1])
    let s := s.event 0x0002 (toBytes 2 (cause.elim 0xFFFF Prod.fst))
    s.setMode 9 (if cause.isSome then 1 else 0)

/-- What a Safe Hold record says of its cause record (R608): its slot and TYPE, or 0xFFFF and 0 when the record was not written
(R607). -/
def State.causeOf (s0 s : State) (type : Nat) : Nat × Nat :=
  if s.cave.rseq = s0.cave.rseq then (0xFFFF, 0) else (s0.cave.rseq % 16384, type)

/-- A cause record, then Safe Hold (R608). -/
def State.cause (s : State) (type unit slot : Nat) (data : List Byte) (ctx : List Byte) : State :=
  let s1 := s.caveCtx type unit slot data true ctx
  s1.safeHold (some (s.causeOf s1 type)) none

/-- An uncorrectable error that puts the device in Safe Hold (R396, R529). -/
def State.ueSafe (s : State) (pa finder : Nat) : State :=
  let s1 := s.ueRecord pa finder true
  s1.safeHold (some (s.causeOf s1 0x8005)) none

end Sys2Proof.Machine
end

