-- ==== Sys2Proof/Machine/Frames.lean ====
section
/-! DEFINITION. QLF frames (R475 to R479), the lane table as in force, order keys (R70), and the transmit queues of
the sub-ports (R494, R495). -/

namespace Sys2Proof.Machine

/-- An order key as 16 bytes (R70). -/
def keyBytes (k : Nat) : List Byte := toBytes 16 k

/-- The order key of a frame (R70). -/
def orderKey (turn cls lane sq : Nat) : Nat := turn * 2 ^ 80 + cls * 2 ^ 64 + lane * 2 ^ 40 + sq

/-- TURN of an order key. -/
def keyTurn (k : Nat) : Nat := k / 2 ^ 80

/-- CLASS of an order key. -/
def keyClass (k : Nat) : Nat := k / 2 ^ 64 % 8

/-- LANE of an order key. -/
def keyLane (k : Nat) : Nat := k / 2 ^ 40 % 2 ^ 24

/-- A lane's entry as Intake uses it now: the one still in force until tick 0, or the table's. -/
def State.lane (s : State) (l : Nat) : Lane := (s.itk.lanesOld.find l).getD (s.itk.lanes.get l {})

/-- Whether a frame of a turn was received before the current turn's tick 0. -/
def State.before (s : State) (turn : Option Nat) : Bool := turn.elim false fun n => decide (n < s.trn.turn)

/-- A lane's entry for a frame received in a turn: an entry written in that turn does not apply to it (R463). -/
def State.laneAt (s : State) (turn : Option Nat) (l : Nat) : Lane :=
  if s.before turn then (s.itk.lanesPrev.find l).getD (s.lane l) else s.lane l

/-- A lane's key as Intake uses it now (R489). -/
def State.laneKey (s : State) (l : Nat) : Option (List Byte) :=
  match s.itk.keysOld.find l with
  | some k => k
  | none => s.itk.keys.find l

/-- A lane's key for a frame received in a turn (R463). -/
def State.laneKeyAt (s : State) (turn : Option Nat) (l : Nat) : Option (List Byte) :=
  match (if s.before turn then s.itk.keysPrev.find l else none) with
  | some k => k
  | none => s.laneKey l

/-- One entry of a map of kept entries changed, if it is there. -/
def laneIn (m : AMap Lane) (l : Nat) (f : Lane → Lane) : AMap Lane :=
  match m.find l with
  | some x => m.put l (f x)
  | none => m

/-- The device fields of a lane changed, in the table, which has an entry for every lane (R487), and in the entries in
force. -/
def State.modLane (s : State) (l : Nat) (f : Lane → Lane) : State :=
  s.modItk fun i =>
    { i with
      lanes := i.lanes.put l (f (i.lanes.get l {}))
      lanesOld := laneIn i.lanesOld l f
      lanesPrev := laneIn i.lanesPrev l f }

/-- MAC of a frame (R477): the first 12 bytes of HMAC-SHA-256 over header bytes 0 to 19 and the payload. -/
def macOf (key header payload : List Byte) : List Byte := (hmac256 key (slice header 0 20 ++ payload)).take 12

/-- An answer to a frame (R475): KIND, CLASS, CODE, INFO and payload; LANE, SEQ and RID are those of the frame. -/
def qlf (key : List Byte) (hdr : List Byte) (kind cls code info : Nat) (payload : List Byte) : List Byte :=
  let h := [BitVec.ofNat 8 1, BitVec.ofNat 8 kind, BitVec.ofNat 8 cls, BitVec.ofNat 8 code] ++ slice hdr 4 10 ++
    toBytes 2 payload.length ++ toBytes 4 info
  h ++ macOf key h payload ++ payload

/-- A sub-port's number. -/
def subNo (port sub : Nat) : Nat := 4 * port + sub

/-- A sub-port. -/
def State.sub (s : State) (port sub : Nat) : SubPort := s.itk.subs.get (subNo port sub) {}

/-- The state with one sub-port changed. -/
def State.modSub (s : State) (port sub : Nat) (f : SubPort → SubPort) : State :=
  s.modItk fun i => { i with subs := i.subs.put (subNo port sub) (f (i.subs.get (subNo port sub) {})) }

/-- A port unit's counter raised (R497), by its index in offset order. -/
def State.count (s : State) (port idx : Nat) : State :=
  s.modItk fun i => { i with cnt := i.cnt.put (16 * port + idx) (satAdd (i.cnt.get (16 * port + idx) 0) 1) }

/-- Counter indices (R497). -/
def cRx : Nat := 0
def cDropFmt : Nat := 1
def cDropLane : Nat := 2
def cDropAuth : Nat := 3
def cDropOvf : Nat := 4
def cAdmitPost : Nat := 5
def cAdmitPeek : Nat := 6
def cTxBusy : Nat := 7
def cTxReject : Nat := 8
def cTxLost : Nat := 9
def cLate : Nat := 10

/-- Whether the ports send and decide (R496, R558): not before Prime completes, in Safe Hold, Recovery or Test-Open. -/
def State.portsOn (s : State) : Bool := [3, 4, 5, 6, 7, 8].contains s.dev.mode && !s.itk.stopped

/-- A frame put on a sub-port's transmit queue at a precedence (R495). With the link down nothing is queued, and a RESULT
is counted in TX_LOST (R494). A replayed frame has no port and no answer (R486, R496). -/
def State.send (s : State) (port sub prec : Nat) (dst : Addr) (bytes : List Byte) : State :=
  if !s.portsOn || 4 ≤ port then s
  else if !(s.sub port sub).up then (if prec ≤ 2 then s.count port cTxLost else s)
  else s.modSub port sub fun x => match prec with
    | 1 => { x with q1 := x.q1 ++ [(dst, bytes)] }
    | 2 => { x with q2 := x.q2 ++ [(dst, bytes)] }
    | _ => { x with q3 := x.q3 ++ [(dst, bytes)] }

/-- A RESULT (R475, R494): the class as admitted and the admission turn. -/
def State.sendResult (s : State) (prec key port sub : Nat) (src : Addr) (hdr : List Byte) (outcome : Nat)
    (payload : List Byte) : State :=
  s.send port sub prec src
    (qlf ((s.laneKey (keyLane key)).getD []) hdr 0x81 (keyClass key) outcome (keyTurn key % 2 ^ 32) payload)

/-! ### What a release waits for (R93, R635) -/

/-- The tag of a RELEASE record among the journal records held for room. -/
def relTag : Nat := 0x100

/-- Whether a RELEASE record waits for room in the journal (R635). -/
def State.relHeld (s : State) : Bool := s.via.jrn.held.any fun r => r.1 = relTag

/-- Whether the next release would wait (R93, R635). -/
def State.relWaits (s : State) : Bool :=
  s.relHeld || (s.prs.batches.head?.elim false fun b => s.vsShort b.2)

/-- The turn and tick as one number. -/
def State.now (s : State) : Nat := s.trn.turn * 2 ^ 16 + s.trn.tick

/-- A change that ends the wait of the release that is due: the slipped release counts from now (R101). -/
def State.waitEnded (s0 s : State) : State :=
  match s.dueBatch with
  | none => s
  | some (n, b) =>
    if s0.relWaits && !s.relWaits then
      s.modPrs fun p => { p with batches := p.batches.put n { b with readyAt := max b.readyAt s.now } }
    else s

/-- A peek ends (R94): its RESULT goes out. A RESULT that is lost was not answered late (R99). -/
def State.peekEnd (s : State) (k outcome : Nat) (payload : List Byte) : State :=
  match s.prs.txs.find k with
  | none => s
  | some t =>
    State.waitEnded s
      ((s.sendResult 2 k t.port t.sub t.src t.header outcome payload).modPrs fun p => { p with txs := p.txs.drop k })

end Sys2Proof.Machine
end

