-- ==== Sys2Proof/Machine/Tally.lean ====
section
/-! DEFINITION. Tally words, rounding, and what the DA, DM, DD, CV (binary), CK units and the packed and zoned memory
operations compute (R232 to R251), as functions of their operands. -/

namespace Sys2Proof.Machine

/-- A decimal integer condition (R251), in the order KIND of R377 numbers them. -/
inductive DCond where
  | data | overflow | divZero
  deriving DecidableEq, Repr

/-- The value of n packed digits (R232). -/
def bcdVal : Nat → Nat → Nat
  | 0, _ => 0
  | n + 1, v => bcdVal n (v / 16) * 10 + v % 16

/-- Whether n nibbles are all digits (R233). -/
def bcdOk : Nat → Nat → Bool
  | 0, _ => true
  | n + 1, v => decide (v % 16 ≤ 9) && bcdOk n (v / 16)

/-- The low n digits of a number, packed. -/
def toBcd : Nat → Nat → Nat
  | 0, _ => 0
  | n + 1, m => toBcd n (m / 10) * 16 + m % 10

/-- Whether a sign nibble is a sign (R233). -/
def signOk (s : Nat) : Bool := decide (10 ≤ s)

/-- Whether a sign nibble is minus (R233). -/
def signNeg (s : Nat) : Bool := decide (s = 0xB) || decide (s = 0xD)

/-- Whether a tally word is valid (R232, R233). -/
def tOk (t : Tally) : Bool := signOk (t.toNat % 16) && bcdOk 23 (t.toNat / 16)

/-- The magnitude of a valid tally word. -/
def tMag (t : Tally) : Nat := bcdVal 23 (t.toNat / 16)

/-- Whether a tally word carries a minus sign. -/
def tMinus (t : Tally) : Bool := signNeg (t.toNat % 16)

/-- The value of a valid tally word (R232). -/
def tVal (t : Tally) : Int := if tMinus t then -(tMag t : Int) else tMag t

/-- The tally word of the low 23 digits of a magnitude with a given sign, also where they are 0. -/
def tRaw (mag : Nat) (neg : Bool) : Tally := BitVec.ofNat 96 (toBcd 23 mag * 16 + (if neg then 0xD else 0xC))

/-- The tally result of a value (R234). -/
def tEnc (v : Int) : Tally := tRaw v.natAbs (decide (v < 0))

/-- A tally result with sign 0xF (R234). -/
def tUns (mag : Nat) : Tally := BitVec.ofNat 96 (toBcd 23 mag * 16 + 0xF)

/-- Plus zero. -/
def tZero : Tally := 0xC

/-- 10^23, one more than the largest magnitude of a tally word. -/
def ten23 : Nat := 10 ^ 23

/-- Whether rounding goes away from zero (R240): mode, sign, kept digits, dropped part as rem over den. -/
def roundsAway (mode : Nat) (neg : Bool) (k rem den : Nat) : Bool :=
  match mode with
  | 0 => decide (2 * rem > den) || (decide (2 * rem = den) && decide (k % 2 = 1))
  | 1 => decide (2 * rem ≥ den)
  | 2 => decide (2 * rem > den)
  | 3 => decide (rem > 0)
  | 4 => false
  | 5 => decide (rem > 0) && !neg
  | 6 => decide (rem > 0) && neg
  | _ => decide (rem > 0) && decide (k % 5 = 0)

/-- num over den rounded to an integer magnitude (R240). -/
def roundMag (mode : Nat) (neg : Bool) (num den : Nat) : Nat :=
  let k := num / den
  if roundsAway mode neg k (num % den) den then k + 1 else k

/-- A signed value rounded: the result takes the sign of the unrounded value (R240). -/
def roundInt (mode : Nat) (v : Int) (den : Nat) : Int :=
  let m := roundMag mode (decide (v < 0)) v.natAbs den
  if v < 0 then -(m : Int) else m

/-- The signed scale of a 6-bit field (R241). -/
def scOf (m : Nat) : Int := if m < 32 then m else (m : Int) - 64

/-- The rounding mode of an RM field (R239). -/
def rmOf (rm drnd : Nat) : Nat := if rm = 7 then drnd else rm

/-- What a unit delivers: its condition, its result or masked result, a second result, and the guard it writes. -/
structure URes where
  cond : Option DCond := none
  r : Tally := 0
  r2 : Tally := 0
  guard : Nat := 0
  gval : Bool := false
  deriving DecidableEq, Repr

/-- A binary result of 1 or 0 (R242). -/
def bin (b : Bool) : Tally := if b then 1 else 0

/-- COND of cmp on two values (R241). -/
def condHolds (c : Nat) (a b : Int) : Bool :=
  match c with
  | 0 => decide (a = b)
  | 1 => decide (a ≠ b)
  | 2 => decide (a < b)
  | 3 => decide (a ≤ b)
  | 4 => decide (b < a)
  | _ => decide (b ≤ a)

/-- DA add and sub: a true result as a tally of N digits with PN (R241, R251). -/
def daSum (v : Int) (m : Nat) : URes :=
  let n := if m % 32 = 0 then 23 else m % 32
  let g := m / 32 % 16
  if v.natAbs < 10 ^ n then { r := tEnc v, guard := g, gval := decide (v < 0) }
  else { cond := some .overflow, r := tRaw (v.natAbs % 10 ^ n) (decide (v < 0)), guard := g, gval := decide (v < 0) }

/-- DA add (R241). -/
def daAdd (o t : Tally) (m : Nat) : URes :=
  if tOk o && tOk t then daSum (tVal o + tVal t) m else { cond := some .data, r := tZero, guard := m / 32 % 16 }

/-- DA sub (R241). -/
def daSub (o t : Tally) (m : Nat) : URes :=
  if tOk o && tOk t then daSum (tVal o - tVal t) m else { cond := some .data, r := tZero, guard := m / 32 % 16 }

/-- DA cmp (R241). -/
def daCmp (o t : Tally) (m : Nat) : URes :=
  if tOk o && tOk t then
    let b := condHolds (m / 16 % 8) (tVal o) (tVal t)
    { r := bin b, guard := m % 16, gval := b }
  else { cond := some .data, guard := m % 16 }

/-- DA srnd (R241): t times 10^SC, rounded by RM. -/
def daSrnd (t : Tally) (m drnd : Nat) : URes :=
  if tOk t then
    let sc := scOf (m % 64)
    let neg := decide (tVal t < 0)
    if 0 ≤ sc then
      let v := tMag t * 10 ^ sc.toNat
      if v < ten23 then { r := tRaw v neg } else { cond := some .overflow, r := tRaw v neg }
    else { r := tEnc (roundInt (rmOf (m / 64) drnd) (tVal t) (10 ^ (-sc).toNat)) }
  else { cond := some .data, r := tZero }

/-- DA neg (R241). -/
def daNeg (t : Tally) : URes :=
  if tOk t then { r := tEnc (-(tVal t)) } else { cond := some .data, r := tZero }

/-- DA abs (R241). -/
def daAbs (t : Tally) (m : Nat) : URes :=
  if tOk t then { r := if m % 2 = 1 then tUns (tMag t) else tEnc (tMag t) } else { cond := some .data, r := tZero }

/-- DA test (R241, R242). -/
def daTest (t : Tally) (m : Nat) : URes :=
  let c := m / 16 % 8
  if c = 4 then { r := bin (tOk t), guard := m % 16, gval := tOk t }
  else if tOk t then
    let b := match c with
      | 0 => decide (tVal t = 0)
      | 1 => decide (tVal t ≠ 0)
      | 2 => decide (tVal t < 0)
      | _ => decide (0 < tVal t)
    { r := bin b, guard := m % 16, gval := b }
  else { cond := some .data, guard := m % 16 }

/-- DM mul (R243): MP0 in r and MP1 in r2. -/
def dmMul (o t : Tally) (m drnd : Nat) : URes :=
  if tOk o && tOk t then
    let r := roundInt (rmOf (m / 32 % 8) drnd) (tVal o * tVal t) (10 ^ (m % 32))
    let neg := decide (r < 0)
    { r := tRaw (r.natAbs / ten23) neg, r2 := tRaw (r.natAbs % ten23) neg }
  else { cond := some .data, r := tZero, r2 := tZero }

/-- DD div (R244, R251): DQ in r and DRM in r2. -/
def ddDiv (o t : Tally) (m drnd : Nat) : URes :=
  if !(tOk o && tOk t) then { cond := some .data, r := tZero, r2 := tZero }
  else if tMag t = 0 then { cond := some .divZero, r := tZero, r2 := tEnc (tVal o) }
  else
    let x := tVal o * (10 ^ (m % 32) : Nat)
    let neg := decide (x < 0) != decide (tVal t < 0)
    let qm := roundMag (rmOf (m / 32 % 8) drnd) neg x.natAbs (tMag t)
    let q : Int := if neg then -(qm : Int) else qm
    if ten23 ≤ qm then { cond := some .overflow, r := tZero, r2 := tEnc (tVal o) }
    else { r := tEnc q, r2 := tEnc (x - q * tVal t) }

/-- CV b2d (R247). -/
def cvB2d (t : W64) (m : Nat) : URes := { r := if m % 2 = 1 then tUns t.toNat else tEnc t.toInt }

/-- CV d2b (R247, R251). -/
def cvD2b (t : Tally) (m : Nat) : URes :=
  if tOk t then
    let v := tVal t
    let ok := if m % 2 = 1 then decide (0 ≤ v) && decide (v < 2 ^ 64)
      else decide (-(2 ^ 63 : Int) ≤ v) && decide (v < 2 ^ 63)
    { cond := if ok then none else some .overflow, r := (BitVec.ofInt 64 v).setWidth 96 }
  else { cond := some .data }

/-- Sums over the digits of t from position 1 (R250): weight 3 at positions of one parity, or doubling with 9 cast out. -/
def gs1Sum : Nat → Nat → Bool → Nat
  | 0, _, _ => 0
  | n + 1, v, w3 => (if w3 then 3 else 1) * (v % 16) + gs1Sum n (v / 16) (!w3)

/-- The Luhn sum (R250). -/
def luhnSum : Nat → Nat → Bool → Nat
  | 0, _, _ => 0
  | n + 1, v, dbl =>
    let d := v % 16
    let x := if dbl then (if 2 * d > 9 then 2 * d - 9 else 2 * d) else d
    x + luhnSum n (v / 16) (!dbl)

/-- CK gs1, luhn and m97 by index 0, 1, 2 (R250). The sign of t is ignored; its sign nibble is still checked (R251). -/
def ckOp (i : Nat) (t : Tally) (m : Nat) : URes :=
  let g := m / 2 % 16
  if tOk t then
    let d := t.toNat / 16
    if m % 2 = 0 then
      let c := match i with
        | 0 => (10 - gs1Sum 23 d true % 10) % 10
        | 1 => (10 - luhnSum 23 d true % 10) % 10
        | _ => 98 - tMag t * 100 % 97
      { r := tUns c }
    else
      let b := match i with
        | 0 => decide (gs1Sum 23 d false % 10 = 0)
        | 1 => decide (luhnSum 23 d false % 10 = 0)
        | _ => decide (tMag t % 97 = 1)
      { r := bin b, guard := g, gval := b }
  else { cond := some .data, r := if m % 2 = 0 then tZero else 0, guard := g }

/-! ### Packed and zoned fields in memory -/

/-- A packed field (R236): its digits as one packed number, whether it is valid, and its sign nibble. -/
def packedOk (l : List Byte) : Bool := signOk (ofBytes l % 16) && bcdOk (2 * l.length - 1) (ofBytes l / 16)

/-- The magnitude of a packed field. -/
def packedMag (l : List Byte) : Nat := bcdVal (2 * l.length - 1) (ofBytes l / 16)

/-- The value of a packed field. -/
def packedVal (l : List Byte) : Int :=
  if signNeg (ofBytes l % 16) then -(packedMag l : Int) else packedMag l

/-- A packed field of n bytes with the low digits of a magnitude and a sign nibble. -/
def packField (n mag sign : Nat) : List Byte := toBytes n (toBcd (2 * n - 1) mag * 16 + sign)

/-- The magnitude of a zoned field (R237). -/
def zonedMag (l : List Byte) : Nat := l.foldl (fun a b => a * 10 + b.toNat % 16) 0

/-- The zone of the last byte. -/
def zonedSign (l : List Byte) : Nat := (l.getLastD 0).toNat / 16

/-- Whether a zoned field is valid: every digit nibble a digit, and the last zone 0x3 or a sign code (R237, R251). The
zones of the other bytes carry nothing and are not checked. -/
def zonedOk (l : List Byte) : Bool :=
  l.all (fun b => decide (b.toNat % 16 ≤ 9)) && (decide (zonedSign l = 3) || signOk (zonedSign l))

/-- A zoned field of n bytes from a magnitude and a last zone. -/
def zoneField : Nat → Nat → Nat → List Byte
  | 0, _, _ => []
  | n + 1, mag, zone => zoneField n (mag / 10) 3 ++ [BitVec.ofNat 8 (zone * 16 + mag % 10)]

/-- What a memory operation of CV does: its condition, CV.r, and the bytes it writes (R249). -/
structure MRes where
  cond : Option DCond := none
  r : Tally := 0
  out : Option (List Byte) := none
  deriving DecidableEq, Repr

/-- CV.r of a value: 0 zero, 1 negative, 2 positive (R249). -/
def signCode (v : Int) : Tally := if v = 0 then 0 else if v < 0 then 1 else 2

/-- CV pack (R249). -/
def cvPack (src : List Byte) (dlen : Nat) : MRes :=
  if zonedOk src then
    let mag := zonedMag src
    let z := zonedSign src
    let v : Int := if signNeg z && decide (z ≠ 3) then -(mag : Int) else mag
    let sign := if mag = 0 then 0xC else if z = 3 then 0xF else if signNeg z then 0xD else 0xC
    let f := packField dlen mag sign
    if mag < 10 ^ (2 * dlen - 1) then { r := signCode v, out := some f }
    else { cond := some .overflow, r := 3, out := some f }
  else { cond := some .data }

/-- CV unpk (R249). -/
def cvUnpk (src : List Byte) (dlen m : Nat) : MRes :=
  if packedOk src then
    let mag := packedMag src
    let sn := ofBytes src % 16
    let zone := if m % 2 = 0 then 3 else if sn = 0xF then 0xF else if mag = 0 || !signNeg sn then 0xC else 0xD
    let f := zoneField dlen mag zone
    if mag < 10 ^ dlen then { r := signCode (packedVal src), out := some f }
    else { cond := some .overflow, r := 3, out := some f }
  else { cond := some .data }

/-- CV mdec (R249): OP 0 move, 1 add, 2 sub, 3 cmp. -/
def cvMdec (src dst : List Byte) (m : Nat) : MRes :=
  let op := m % 8
  if !(packedOk src && (decide (op = 0) || packedOk dst)) then { cond := some .data }
  else if op = 3 then { r := bin (condHolds (m / 8 % 8) (packedVal dst) (packedVal src)) }
  else
    let v := match op with
      | 0 => packedVal src
      | 1 => packedVal dst + packedVal src
      | _ => packedVal dst - packedVal src
    let n := dst.length
    let f := packField n v.natAbs (if v < 0 then 0xD else 0xC)
    if v.natAbs < 10 ^ (2 * n - 1) then { r := signCode v, out := some f }
    else { cond := some .overflow, r := 3, out := some f }

end Sys2Proof.Machine
end

