-- ==== Sys2Proof/Machine/DecFloat.lean ====
section
/-! DEFINITION. The DF unit and the CV conversions to and from decimal floating point: IEEE 754-2008 decimal64 and
decimal128 in DPD (R255 to R273, R247). -/

namespace Sys2Proof.Machine

/-- A decimal floating-point datum: NaN with its payload, infinity, or c times 10^q. -/
inductive Df where
  | nan (neg sig : Bool) (payload : Nat)
  | inf (neg : Bool)
  | fin (neg : Bool) (c : Nat) (q : Int)
  deriving DecidableEq, Repr

/-- Coefficient digits p (R256). -/
def fP (w : Bool) : Nat := if w then 34 else 16
/-- qmin (R256). -/
def fQmin (w : Bool) : Int := if w then -6176 else -398
/-- qmax (R256). -/
def fQmax (w : Bool) : Int := if w then 6111 else 369
/-- emin (R256). -/
def fEmin (w : Bool) : Int := if w then -6143 else -383
/-- Declets of the trailing field. -/
def fDecl (w : Bool) : Nat := if w then 11 else 5
/-- Bits of the exponent continuation. -/
def fExp (w : Bool) : Nat := if w then 12 else 8
/-- All bits of the format. -/
def fBits (w : Bool) : Nat := if w then 128 else 64

/-- Bits hi down to lo of a number. -/
def nb (v hi lo : Nat) : Nat := v / 2 ^ lo % 2 ^ (hi - lo + 1)

/-- The three digits of a declet (DPD). -/
def undecl (d : Nat) : Nat :=
  let pq := nb d 9 8
  let r := nb d 7 7
  let st := nb d 6 5
  let u := nb d 4 4
  let wx := nb d 2 1
  let y := nb d 0 0
  if nb d 3 3 = 0 then (pq * 2 + r) * 100 + (st * 2 + u) * 10 + (wx * 2 + y)
  else match wx with
    | 0 => (pq * 2 + r) * 100 + (st * 2 + u) * 10 + (8 + y)
    | 1 => (pq * 2 + r) * 100 + (8 + u) * 10 + (st * 2 + y)
    | 2 => (8 + r) * 100 + (st * 2 + u) * 10 + (pq * 2 + y)
    | _ => match st with
      | 0 => (8 + r) * 100 + (8 + u) * 10 + (pq * 2 + y)
      | 1 => (8 + r) * 100 + (pq * 2 + u) * 10 + (8 + y)
      | 2 => (pq * 2 + r) * 100 + (8 + u) * 10 + (8 + y)
      | _ => (8 + r) * 100 + (8 + u) * 10 + (8 + y)

/-- The canonical declet of three digits (DPD). -/
def decl (n : Nat) : Nat :=
  let a := n / 100 % 10
  let b := n / 10 % 10
  let c := n % 10
  let lo (x : Nat) := x / 2 % 4
  match decide (7 < a), decide (7 < b), decide (7 < c) with
  | false, false, false => a * 128 + b * 16 + c
  | false, false, true => a * 128 + b * 16 + 8 + c % 2
  | false, true, false => a * 128 + lo c * 32 + b % 2 * 16 + 10 + c % 2
  | true, false, false => lo c * 256 + a % 2 * 128 + b * 16 + 12 + c % 2
  | true, true, false => lo c * 256 + a % 2 * 128 + b % 2 * 16 + 14 + c % 2
  | true, false, true => lo b * 256 + a % 2 * 128 + 32 + b % 2 * 16 + 14 + c % 2
  | false, true, true => a * 128 + 64 + b % 2 * 16 + 14 + c % 2
  | true, true, true => a % 2 * 128 + 96 + b % 2 * 16 + 14 + c % 2

/-- The digits of n declets. -/
def undecls : Nat → Nat → Nat
  | 0, _ => 0
  | n + 1, v => undecls n (v / 1024) * 1000 + undecl (v % 1024)

/-- n canonical declets of a number. -/
def decls : Nat → Nat → Nat
  | 0, _ => 0
  | n + 1, m => decls n (m / 1000) * 1024 + decl (m % 1000)

/-- The bits of a datum read by its format (R257). -/
def dfDec (w : Bool) (v : Nat) : Df :=
  let top := fBits w
  let neg := decide (nb v (top - 1) (top - 1) = 1)
  let g := nb v (top - 2) (top - 6)
  let tb := 10 * fDecl w
  let ec := nb v (tb + fExp w - 1) tb
  let tr := v % 2 ^ tb
  if g = 31 then
    let pl := undecls (fDecl w) tr
    .nan neg (decide (ec / 2 ^ (fExp w - 1) = 1)) (if decls (fDecl w) pl = tr then pl else 0)
  else if g = 30 then .inf neg
  else
    let (em, d) := if g / 8 = 3 then (g / 2 % 4, 8 + g % 2) else (g / 8, g % 8)
    .fin neg (d * 1000 ^ fDecl w + undecls (fDecl w) tr) ((em * 2 ^ fExp w + ec : Nat) + fQmin w)

/-- The canonical bits of a datum (R258). -/
def dfEnc (w : Bool) (d : Df) : Nat :=
  let top := fBits w
  let s (neg : Bool) := if neg then 2 ^ (top - 1) else 0
  match d with
  | .nan neg sig pl => s neg + (if sig then 0x7E else 0x7C) * 2 ^ (top - 8) + decls (fDecl w) pl
  | .inf neg => s neg + 0x78 * 2 ^ (top - 8)
  | .fin neg c q =>
    let e := (q - fQmin w).toNat
    let lead := c / 1000 ^ fDecl w
    let em := e / 2 ^ fExp w
    let g := if lead < 8 then em * 8 + lead else 24 + em * 2 + (lead - 8)
    s neg + g * 2 ^ (top - 6) + e % 2 ^ fExp w * 2 ^ (10 * fDecl w) + decls (fDecl w) (c % 1000 ^ fDecl w)

/-- The number of significant digits; 1 for 0. -/
def digs (n : Nat) : Nat :=
  if n = 0 then 1
  else
    let d := Nat.log2 n * 30103 / 100000
    if n < 10 ^ d then d else if n < 10 ^ (d + 1) then d + 1 else d + 2

/-- FINV, FDIVZ, FOVF, FUNF, FINX as AFLAG bits 4 to 0 (R153, R272). -/
def fINV : Nat := 16
/-- FDIVZ. -/
def fDIVZ : Nat := 8
/-- FOVF and FINX. -/
def fOVX : Nat := 5
/-- FUNF and FINX. -/
def fUNX : Nat := 3
/-- FINX. -/
def fINX : Nat := 1

/-- The rounding rule of R240 that a DFRND mode selects (R144). -/
def dfMode (m : Nat) : Nat :=
  match m with
  | 0 => 0
  | 1 => 1
  | 2 => 5
  | 3 => 6
  | _ => 4

/-- Trailing zeros taken off while the exponent is below the preferred one. -/
def dfStrip : Nat → Nat → Int → Int → Nat × Int
  | 0, c, q, _ => (c, q)
  | n + 1, c, q, pref => if q < pref && c % 10 = 0 then dfStrip n (c / 10) (q + 1) pref else (c, q)

/-- The delivered value of (c, plus a fraction when sticky) times 10^q with a sign: rounding, preferred exponent,
overflow and underflow (R265, R269, R272, R273). -/
def dfRound (w : Bool) (mode : Nat) (neg : Bool) (c0 : Nat) (q0 : Int) (sticky : Bool) (pref : Int) : Df × Nat :=
  if c0 = 0 && !sticky then (.fin neg 0 (max (fQmin w) (min (fQmax w) pref)), 0)
  else
    let (c, q) := if sticky then (c0, q0) else dfStrip (digs c0) c0 q0 pref
    let n := digs c
    let drop := max ((n : Int) - fP w) (max (fQmin w - q) 0)
    let tiny := decide (q + n - 1 < fEmin w)
    let big := decide (drop > n + 2)
    let num := if big then 1 else 10 * c + (if sticky then 1 else 0)
    let den := if big then 100 else 10 * 10 ^ drop.toNat
    let inexact := decide (num % den ≠ 0)
    let r0 := if drop = 0 && !sticky then c else roundMag (dfMode mode) neg num den
    let q1 := q + drop
    let (r, q2) := if r0 = 10 ^ fP w then (r0 / 10, q1 + 1) else (r0, q1)
    let (r, q2) := if inexact then (r, q2)
      else
        let pad := max 0 (min (q2 - max pref (fQmin w)) (fP w - digs r : Nat))
        (r * 10 ^ pad.toNat, q2 - pad)
    if q2 > fQmax w then
      if r = 0 then (.fin neg 0 (fQmax w), if inexact then fINX else 0)
      else if q2 - fQmax w ≤ (fP w - digs r : Nat) then
        (.fin neg (r * 10 ^ (q2 - fQmax w).toNat) (fQmax w), if inexact then fINX else 0)
      else
        let toInf := match mode with
          | 2 => !neg
          | 3 => neg
          | 4 => false
          | _ => true
        (if toInf then .inf neg else .fin neg (10 ^ fP w - 1) (fQmax w), fOVX)
    else (.fin neg r q2, if inexact then (if tiny then fUNX else fINX) else 0)

/-- The default quiet NaN (R256). -/
def dfDefault : Df := .nan false false 0

/-- Whether a datum is a NaN. -/
def Df.isNan : Df → Bool
  | .nan _ _ _ => true
  | _ => false

/-- Whether a datum is a signalling NaN. -/
def Df.isSig : Df → Bool
  | .nan _ s _ => s
  | _ => false

/-- The quiet NaN that NaN operands deliver, and the invalid flag (R270). -/
def dfNans (l : List Df) : Option (Df × Nat) :=
  match l.find? Df.isNan with
  | some (.nan n _ p) => some (.nan n false p, if l.any Df.isSig then fINV else 0)
  | _ => none

/-- The signed coefficient of a finite datum at exponent e, e at most q. -/
def atExp (neg : Bool) (c : Nat) (q e : Int) : Int :=
  let m : Int := (c * 10 ^ (q - e).toNat : Nat)
  if neg then -m else m

/-- The exact sum of two finite data, rounded (R265, R269). -/
def dfAddFin (w : Bool) (mode : Nat) (n1 : Bool) (c1 : Nat) (q1 : Int) (n2 : Bool) (c2 : Nat) (q2 : Int) :
    Df × Nat :=
  let e := min q1 q2
  let v := atExp n1 c1 q1 e + atExp n2 c2 q2 e
  if v = 0 then
    let neg := (n1 && n2 && decide (c1 = 0) && decide (c2 = 0)) || decide (mode = 3)
    (.fin neg 0 (max (fQmin w) (min (fQmax w) e)), 0)
  else dfRound w mode (decide (v < 0)) v.natAbs e false e

/-- The negation of a datum; a NaN keeps its sign. -/
def dfNeg : Df → Df
  | .inf n => .inf (!n)
  | .fin n c q => .fin (!n) c q
  | d => d

/-- add (R265, R271). -/
def dfAdd (w : Bool) (mode : Nat) (a b : Df) : Df × Nat :=
  match dfNans [a, b] with
  | some r => r
  | none => match a, b with
    | .inf x, .inf y => if x = y then (.inf x, 0) else (dfDefault, fINV)
    | .inf x, _ => (.inf x, 0)
    | _, .inf y => (.inf y, 0)
    | .fin n1 c1 q1, .fin n2 c2 q2 => dfAddFin w mode n1 c1 q1 n2 c2 q2
    | _, _ => (dfDefault, fINV)

/-- sub, as o + (-t) (R265). -/
def dfSub (w : Bool) (mode : Nat) (a b : Df) : Df × Nat := dfAdd w mode a (dfNeg b)

/-- mul (R265, R271). -/
def dfMul (w : Bool) (mode : Nat) (a b : Df) : Df × Nat :=
  match dfNans [a, b] with
  | some r => r
  | none => match a, b with
    | .inf x, .inf y => (.inf (x != y), 0)
    | .inf x, .fin y c _ => if c = 0 then (dfDefault, fINV) else (.inf (x != y), 0)
    | .fin x c _, .inf y => if c = 0 then (dfDefault, fINV) else (.inf (x != y), 0)
    | .fin n1 c1 q1, .fin n2 c2 q2 => dfRound w mode (n1 != n2) (c1 * c2) (q1 + q2) false (q1 + q2)
    | _, _ => (dfDefault, fINV)

/-- div (R265, R271, R272). -/
def dfDiv (w : Bool) (mode : Nat) (a b : Df) : Df × Nat :=
  match dfNans [a, b] with
  | some r => r
  | none => match a, b with
    | .inf _, .inf _ => (dfDefault, fINV)
    | .inf x, .fin y _ _ => (.inf (x != y), 0)
    | .fin x _ _, .inf y => (.fin (x != y) 0 (fQmin w), 0)
    | .fin n1 c1 q1, .fin n2 c2 q2 =>
      if c2 = 0 then (if c1 = 0 then (dfDefault, fINV) else (.inf (n1 != n2), fDIVZ))
      else
        let k := fP w + 3 + digs c2
        let num := c1 * 10 ^ k
        dfRound w mode (n1 != n2) (num / c2) (q1 - q2 - k) (decide (num % c2 ≠ 0)) (q1 - q2)
    | _, _ => (dfDefault, fINV)

/-- fma, o times t plus o2 with one rounding (R260, R265, R269 to R271). -/
def dfFma (w : Bool) (mode : Nat) (a b d : Df) : Df × Nat :=
  let zi := match a, b with
    | .inf _, .fin _ c _ => decide (c = 0)
    | .fin _ c _, .inf _ => decide (c = 0)
    | _, _ => false
  match dfNans [a, b, d] with
  | some (r, f) => (r, if zi then fINV else f)
  | none =>
    if zi then (dfDefault, fINV)
    else match a, b with
      | .fin n1 c1 q1, .fin n2 c2 q2 => match d with
        | .fin n3 c3 q3 => dfAddFin w mode (n1 != n2) (c1 * c2) (q1 + q2) n3 c3 q3
        | _ => (d, 0)
      | _, _ =>
        let sgn : Df → Bool := fun x => match x with
          | .inf n => n
          | .fin n _ _ => n
          | .nan n _ _ => n
        let n := sgn a != sgn b
        match d with
        | .inf y => if y = n then (.inf n, 0) else (dfDefault, fINV)
        | _ => (.inf n, 0)

/-- The order of two non-NaN data by value (R267). -/
def dfCompare (a b : Df) : Ordering :=
  let key : Df → Int := fun x => match x with
    | .inf n => if n then -1 else 1
    | _ => 0
  match a, b with
  | .fin n1 c1 q1, .fin n2 c2 q2 =>
    let e := min q1 q2
    compare (atExp n1 c1 q1 e) (atExp n2 c2 q2 e)
  | _, _ => compare (key a) (key b)

/-- cmp and cmps: the relation and the flags (R267, R270, R271). -/
def dfCmp (sig : Bool) (cond : Nat) (a b : Df) : Bool × Nat :=
  if a.isNan || b.isNan then
    let f := if sig || a.isSig || b.isSig then fINV else 0
    (if decide (f = fINV) then false else decide (cond = 1 || cond = 6), f)
  else
    let o := dfCompare a b
    (match cond with
      | 0 => o == .eq
      | 1 => o != .eq
      | 2 => o == .lt
      | 3 => o != .gt
      | 4 => o == .gt
      | 5 => o != .lt
      | 6 => false
      | _ => true, 0)

/-- quant (R266). -/
def dfQuant (w : Bool) (mode : Nat) (a b : Df) : Df × Nat :=
  match dfNans [a, b] with
  | some r => r
  | none => match a, b with
    | .inf x, .inf _ => (.inf x, 0)
    | .fin n c q, .fin _ _ qt =>
      let d := (qt - q).toNat
      let r := if qt ≤ q then c * 10 ^ (q - qt).toNat else roundMag (dfMode mode) n c (10 ^ d)
      let inexact := decide (q < qt) && decide (c % 10 ^ d ≠ 0)
      if r < 10 ^ fP w then (.fin n r qt, if inexact then fINX else 0) else (dfDefault, fINV)
    | _, _ => (dfDefault, fINV)

/-- rint (R265). -/
def dfRint (mode : Nat) (x : Bool) (a : Df) : Df × Nat :=
  match dfNans [a] with
  | some r => r
  | none => match a with
    | .fin n c q =>
      if 0 ≤ q then (a, 0)
      else
        let d := 10 ^ (-q).toNat
        (.fin n (roundMag (dfMode mode) n c d) 0, if x && decide (c % d ≠ 0) then fINX else 0)
    | d => (d, 0)

/-- scaleb (R265, R266). -/
def dfScaleb (w : Bool) (mode : Nat) (a : Df) (n : Int) : Df × Nat :=
  match dfNans [a] with
  | some r => r
  | none => match a with
    | .fin s c q => dfRound w mode s c (q + n) false (q + n)
    | d => (d, 0)

/-- min and max (R267, R270). -/
def dfMinMax (mx : Bool) (a b : Df) : Df × Nat :=
  if a.isSig || b.isSig || (a.isNan && b.isNan) then (dfNans [a, b]).getD (dfDefault, fINV)
  else if a.isNan then (b, 0)
  else if b.isNan then (a, 0)
  else match dfCompare a b with
    | .lt => (if mx then b else a, 0)
    | .gt => (if mx then a else b, 0)
    | .eq => match a, b with
      | .fin n1 _ q1, .fin n2 _ q2 =>
        if n1 != n2 then (if n1 = mx then b else a, 0)
        else if q1 = q2 then (a, 0)
        else (if decide (q1 < q2) = mx then b else a, 0)
      | _, _ => (a, 0)

/-- widen (R265, R270). -/
def dfWiden (a : Df) : Df × Nat := (dfNans [a]).getD (a, 0)

/-- narrow (R265, R270). -/
def dfNarrow (mode : Nat) (a : Df) : Df × Nat :=
  match dfNans [a] with
  | some (.nan n s p, f) => (.nan n s (p % 10 ^ 15), f)
  | some r => r
  | none => match a with
    | .fin n c q => dfRound false mode n c q false q
    | d => (d, 0)

/-- The rounding mode of an RD field (R264). -/
def rdOf (rd dfrnd : Nat) : Nat := if rd = 0 then dfrnd else rd - 1

/-- CV t2f (R247): the bits, the flags and the condition. -/
def cvT2f (t : Tally) (m dfrnd : Nat) : Option DCond × Nat × Nat :=
  let w := decide (m % 2 = 1)
  if tOk t then
    let sc := scOf (m / 2 % 64)
    let (d, f) := dfRound w dfrnd (tMinus t) (tMag t) (-sc) false (-sc)
    (none, dfEnc w d, if !w && 10 ^ 16 ≤ tMag t then f ||| fINX else f)
  else (some .data, 0, 0)

/-- CV f2t (R247, R251). -/
def cvF2t (bits m drnd : Nat) : URes :=
  let w := decide (m % 2 = 1)
  match dfDec w bits with
  | .nan _ _ _ => { cond := some .data, r := tZero }
  | .inf _ => { cond := some .overflow, r := tZero }
  | .fin n c q =>
    let e := q + scOf (m / 2 % 64)
    let v := if 0 ≤ e then c * 10 ^ e.toNat else roundMag drnd n c (10 ^ (-e).toNat)
    if v < ten23 then { r := tRaw v (n && decide (v ≠ 0)) } else { cond := some .overflow, r := tRaw v n }

end Sys2Proof.Machine
end

