-- ==== Sys2Proof/Machine/Operands.lean ====
section
/-! DEFINITION. Operand forms of the engines: bundle layout, the port map, OPMOD checks, immediates, guards, ESW as a
word, and reads and writes of control registers. -/

namespace Sys2Proof.Machine

/-! ### Bundles (R170, R171) -/

/-- One slot of a bundle (R171). -/
structure Slot where
  guard : Nat
  dst : Nat
  src : Nat
  op : Nat
  deriving DecidableEq, Repr

/-- The slot that 40 bits spell (R171). -/
def slotOfBits (v : Nat) : Slot := ⟨nb v 39 35, nb v 34 23, nb v 22 9, nb v 8 0⟩

/-- FMT of a bundle (R170). -/
def fmtOf (b : Bundle) : Nat := nb b.toNat 127 126

/-- The slots of a bundle with their numbers (R170). -/
def slotsOf (b : Bundle) : List (Nat × Slot) :=
  let v := b.toNat
  match fmtOf b with
  | 0 => [(0, slotOfBits (nb v 119 80)), (1, slotOfBits (nb v 79 40)), (2, slotOfBits (nb v 39 0))]
  | 1 => [(0, slotOfBits (nb v 119 80)), (1, slotOfBits (nb v 79 40))]
  | 2 => [(0, slotOfBits (nb v 119 80))]
  | _ => []

/-- Whether the source of a slot is a short immediate (R171). -/
def Slot.short (x : Slot) : Bool := decide (2 ^ 13 ≤ x.src)

/-- The source port id. -/
def Slot.sport (x : Slot) : Nat := x.src % 2 ^ 12

/-- Whether the source is an immediate, short or long (R176, R178). -/
def Slot.imm (x : Slot) : Bool := x.short || decide (x.sport = 0x048)

/-- The guard bit a slot names, and whether it is inverted (R171). -/
def Slot.runs (x : Slot) (p : BitVec 16) : Bool :=
  (decide (x.guard % 16 = 0) || p.getLsbD (x.guard % 16)) != decide (16 ≤ x.guard)

/-! ### Port map (R184) -/

/-- Whether a CRN is assigned (R147). -/
def crnOk (n : Nat) : Bool := decide (n ≤ 0x18) || (decide (0x20 ≤ n) && decide (n ≤ 0x27))

/-- Whether an id is a tally register. -/
def isT (p : Nat) : Bool := decide (0x20 ≤ p) && decide (p ≤ 0x3F)

/-- Whether an id is a control register id. -/
def isCr (p : Nat) : Bool := decide (0x100 ≤ p) && decide (p ≤ 0x13F)

/-- How many triggers each unit has, by its first trigger id (R184). -/
def trigTable : List (Nat × Nat) :=
  [(0x210, 12), (0x230, 12), (0x250, 7), (0x270, 1), (0x290, 1), (0x2B0, 14), (0x2D0, 7), (0x2F0, 3), (0x310, 5),
   (0x330, 1), (0x350, 5), (0x358, 5), (0x370, 5), (0x378, 5), (0x390, 6), (0x3B0, 1), (0x3D0, 4), (0x3F0, 3)]

/-- Whether an id is a trigger port. -/
def isTrig (p : Nat) : Bool := trigTable.any fun x => decide (x.1 ≤ p) && decide (p < x.1 + x.2)

/-- The operand ports. -/
def opndPorts : List Nat := [0x200, 0x220, 0x240, 0x260, 0x280, 0x2A0, 0x2A1, 0x2C0, 0x340, 0x360]

/-- The result ports. -/
def resPorts : List Nat :=
  [0x201, 0x221, 0x241, 0x261, 0x262, 0x281, 0x282, 0x2A2, 0x2C1, 0x2E1, 0x301, 0x321, 0x341, 0x361]

/-- Registers that are sources and destinations: NULL, guards, tally registers, palette, control register ids. -/
def isReg (p : Nat) : Bool := decide (p = 0) || (decide (0x10 ≤ p) && decide (p ≤ 0x47)) || isCr p

/-- Whether an id may be a destination. -/
def dstOk (p : Nat) : Bool := isReg p || opndPorts.contains p || isTrig p

/-- Whether an id may be a source; LIMM not in FMT 0b00 (R178). -/
def srcOk (fmt p : Nat) : Bool := isReg p || resPorts.contains p || (decide (p = 0x048) && decide (fmt ≠ 0))

/-- The unit of a trigger or operand port. -/
def unitOf (p : Nat) : Nat := p / 32

/-- The ports of domain D (R184): the operand and trigger ports that take the decimal presentation. -/
def isDec (p : Nat) : Bool :=
  [0x240, 0x260, 0x280, 0x2D1, 0x2D2].contains p || (isTrig p && [0x12, 0x13, 0x14, 0x17].contains (unitOf p))

/-! ### OPMOD checks (R206 order 3) -/

/-- Whether the OPMOD of a trigger holds a reserved bit or value. -/
def opmodBad (p op : Nat) : Bool :=
  let i := p % 16
  match unitOf p with
  | 0x10 | 0x11 => if 9 ≤ i then decide (16 ≤ op) else decide (op ≠ 0)
  | 0x12 => match i with
    | 0 | 1 => decide (24 ≤ op % 32)
    | 2 => decide (128 ≤ op) || decide (6 ≤ op / 16 % 8)
    | 3 => decide (op % 64 = 32)
    | 4 => decide (op ≠ 0)
    | 5 => decide (2 ≤ op)
    | _ => decide (128 ≤ op) || decide (5 ≤ op / 16 % 8)
  | 0x13 | 0x14 => decide (24 ≤ op % 32) || decide (256 ≤ op)
  | 0x15 =>
    let rdBad := decide (6 ≤ op / 2 % 8)
    match i with
    | 5 | 6 => decide (256 ≤ op)
    | 8 => decide (32 ≤ op) || rdBad
    | 10 | 11 => decide (2 ≤ op)
    | 12 => decide (op ≠ 0)
    | 13 => decide (16 ≤ op) || rdBad || decide (op % 2 = 0)
    | _ => decide (16 ≤ op) || rdBad
  | 0x16 => match i with
    | 0 | 1 | 5 => decide (2 ≤ op)
    | 2 | 3 => decide (128 ≤ op) || decide (op / 2 = 32)
    | 4 => decide (op ≠ 0)
    | _ => decide (64 ≤ op) || decide (4 ≤ op % 8) ||
        (if op % 8 = 3 then decide (6 ≤ op / 8 % 8) else decide (op / 8 % 8 ≠ 0))
  | 0x17 => decide (32 ≤ op) || (decide (op % 2 = 0) && decide (op / 2 % 16 ≠ 0))
  | 0x18 => match i with
    | 1 => decide (16 ≤ op)
    | 2 => decide (32 ≤ op)
    | _ => decide (op ≠ 0)
  | 0x19 => decide (32 ≤ op)
  | 0x1A | 0x1B => false
  | 0x1C => if i = 0 || i = 1 then decide (2 ≤ op) else decide (op ≠ 0)
  | 0x1D => decide (64 ≤ op)
  | 0x1E => if i = 2 then decide (4 ≤ op) || decide (op = 3) else decide (op ≠ 0)
  | _ => decide (op ≠ 0)

/-- The OPMOD check of a slot (R176, R206 order 3). -/
def Slot.opBad (x : Slot) : Bool :=
  if isTrig x.dst then opmodBad x.dst x.op
  else decide (2 ≤ x.op) || (decide (x.op = 1) && !(isT x.dst && x.imm))

/-- The opmod bits that name a guard (R218), as a mask position and width: bits that Curd requires to be 0. -/
def guardField (p op : Nat) : Nat :=
  let i := p % 16
  match unitOf p with
  | 0x12 => if i = 0 || i = 1 then op / 32 % 16 else if i = 2 || i = 6 then op % 16 else 0
  | 0x15 => if i = 5 || i = 6 then op / 16 % 16 else 0
  | 0x17 => op / 2 % 16
  | 0x18 => if i = 1 || i = 2 then op % 16 else 0
  | 0x19 => op % 16
  | _ => 0

/-! ### Exceptions found -/

/-- An exception to be entered (R371, R375, R376): class, SUB, FADDR, FINFO, AFLAG bits set even so (R274), and the
trap record of a Decimal Float Trap (R377, bytes 0x150 to 0x197). -/
structure Exc where
  cls : Nat
  sub : Nat := 0
  faddr : Nat := 0
  finfo : Nat := 0
  aflag : Nat := 0
  dft : Option (List Byte) := none
  deriving DecidableEq, Repr

/-- Class codes (R371). -/
def xMcheck : Nat := 0x01
def xReserved : Nat := 0x02
def xPort : Nat := 0x03
def xOpcode : Nat := 0x04
def xRepeat : Nat := 0x05
def xAlign : Nat := 0x06
def xStraddle : Nat := 0x07
def xWalkRegion : Nat := 0x08
def xWalkBus : Nat := 0x09
def xBus : Nat := 0x0A
def xNotValid : Nat := 0x0B
def xFormat : Nat := 0x0C
def xDenied : Nat := 0x0D
def xLedger : Nat := 0x0E
def xTxWrite : Nat := 0x0F
def xSequence : Nat := 0x10
def xKey : Nat := 0x11
def xMark : Nat := 0x12
def xUnderflow : Nat := 0x13
def xOverflow : Nat := 0x14
def xBounds : Nat := 0x15
def xFloat : Nat := 0x19

/-- The class of a decimal integer condition. -/
def xOfCond : DCond → Nat
  | .data => 0x16 | .overflow => 0x17 | .divZero => 0x18

/-- KIND of a decimal integer condition (R377). -/
def kindOf : DCond → Nat
  | .data => 1 | .overflow => 2 | .divZero => 3

/-- The AFLAG bit of a decimal integer condition (R153). -/
def aflagOf : DCond → Nat
  | .data => 2 ^ 10 | .overflow => 2 ^ 9 | .divZero => 2 ^ 8

/-- Slot-and-port form of FADDR (R375). -/
def slotPort (slot port : Nat) : Nat := slot * 2 ^ 16 + port

/-- The checks of R206, orders 1 to 7, on a bundle; dly: whether it is a delay bundle. Of a destination named twice, or two
triggers of one unit, the later slot of the pair is the one that breaks the rule and that FADDR names (log 42). -/
def decodeCheck (b : Bundle) (dly : Bool) : Option Exc :=
  let sl := slotsOf b
  let first (p : Nat × Slot → Bool) (f : Nat × Slot → Exc) : Option Exc := (sl.find? p).map f
  if fmtOf b = 3 || nb b.toNat 125 120 ≠ 0 then some { cls := xReserved, faddr := slotPort 3 0 }
  else
    let srcNamed (x : Slot) := !x.short
    let dup (p : Nat × Slot) : Bool := sl.any fun q => decide (q.1 < p.1) &&
      ((decide (q.2.dst = p.2.dst) && decide (p.2.dst ≠ 0)) ||
        (isTrig q.2.dst && isTrig p.2.dst && decide (unitOf q.2.dst = unitOf p.2.dst)))
    let bad (x : Slot) := !(dstOk x.dst) || (srcNamed x && !(srcOk (fmtOf b) x.sport))
    let crBad (x : Slot) : Option Nat :=
      if isCr x.dst && !(crnOk (x.dst - 0x100)) then some x.dst
      else if srcNamed x && isCr x.sport && !(crnOk (x.sport - 0x100)) then some x.sport else none
    (first (fun p => srcNamed p.2 && decide (2 ^ 12 ≤ p.2.src))
      (fun p => { cls := xReserved, faddr := slotPort p.1 p.2.dst })) <|>
    (first (fun p => p.2.opBad) (fun p => { cls := xReserved, faddr := slotPort p.1 p.2.dst })) <|>
    (first (fun p => bad p.2)
      (fun p => { cls := xPort, faddr := slotPort p.1 (if dstOk p.2.dst then p.2.sport else p.2.dst) })) <|>
    (first (fun p => (crBad p.2).isSome)
      (fun p => { cls := xReserved, faddr := slotPort p.1 ((crBad p.2).getD 0) })) <|>
    (first dup (fun p => { cls := xPort, faddr := slotPort p.1 p.2.dst })) <|>
    (if dly then first (fun p => isTrig p.2.dst && [0x1C, 0x1D, 0x1E].contains (unitOf p.2.dst))
      (fun p => { cls := xPort, faddr := slotPort p.1 p.2.dst }) else none)

/-! ### Immediates (R177) -/

/-- A short immediate as presented to a destination: decimal or binary. -/
def shortImm (src : Nat) (dec : Bool) : Tally :=
  let n : Int := if src % 2 ^ 13 < 2 ^ 12 then src % 2 ^ 13 else (src % 2 ^ 13 : Int) - 2 ^ 13
  if dec then tRaw n.natAbs (decide (n < 0)) else (BitVec.ofInt 64 n).setWidth 96

/-- The long immediate of a bundle as presented (R177, R178). -/
def longImm (b : Bundle) (dec : Bool) : Tally :=
  if fmtOf b = 1 then
    let v := b.toNat % 2 ^ 40
    if dec then BitVec.ofNat 96 v else ((BitVec.ofNat 40 v).signExtend 64).setWidth 96
  else BitVec.ofNat 96 (b.toNat % 2 ^ 80)

/-! ### The engine status word (R142) -/

/-- ESW as a word. -/
def Esw.bits (x : Esw) : W64 := BitVec.ofNat 64 (
  x.cb.toNat * 2 ^ 48 + x.sb.toNat * 2 ^ 32 + x.drnd.toNat * 2 ^ 29 + x.dfrnd.toNat * 2 ^ 26 + x.dfte.toNat * 2 ^ 21 +
  x.dxe.toNat * 2 ^ 18 + x.key.toNat * 2 ^ 14 + x.tx.toNat * 2 ^ 12 + x.salv.toNat * 2 ^ 11 + x.bp.toNat * 2 ^ 10 +
  x.la.toNat * 2 ^ 9 + x.pr.toNat * 2 ^ 3 + x.ie.toNat * 2 ^ 2 + x.priv.toNat * 2 + x.priv.toNat)

/-- The RW fields of ESW taken from a word (R142); IE stays 0 in Salvage (R400) and PR stays 1 while forced (R146). -/
def Esw.write (x : Esw) (w : W64) (forced : Bool) : Esw :=
  { x with
    sb := BitVec.ofNat 16 (fld w 47 32), drnd := BitVec.ofNat 3 (fld w 31 29), dfrnd := BitVec.ofNat 3 (fld w 28 26),
    dfte := BitVec.ofNat 5 (fld w 25 21), dxe := BitVec.ofNat 3 (fld w 20 18), key := BitVec.ofNat 4 (fld w 17 14),
    pr := forced || bit w 3, ie := bit w 2 && !x.salv }

/-- Whether a word holds a reserved ESW encoding (R145). -/
def eswBad (w : W64) : Bool := decide (fld w 8 4 ≠ 0) || decide (5 ≤ fld w 28 26)

/-- Whether PR reads 1 whatever is written: Strict Service as the engine goes by it (R390), or a precise re-run (R146). -/
def State.prForced (s : State) (e : Nat) : Bool :=
  decide (s.modeAt e = 5) || ((s.eng e).att.elim false Attempt.precise)

/-- The ESW in effect, with PR forced (R146). -/
def State.esw (s : State) (e : Nat) : Esw :=
  let x := (s.eng e).cr.esw
  { x with pr := x.pr || s.prForced e }

/-! ### Control registers (R147) -/

/-- The synchronising registers (R147). -/
def crSync (n : Nat) : Bool := [0x00, 0x01, 0x02, 0x03, 0x17, 0x18].contains n

/-- The registers of R89: in a transaction they read 0 and ignore writes. -/
def crZero (n : Nat) : Bool := [0x11, 0x13, 0x14, 0x15, 0x16].contains n || decide (0x20 ≤ n)

/-- The reserved bits of a control register (R147 to R157). RO registers without a reserved field have none. -/
def crRsv (n : Nat) : Nat :=
  match n with
  | 0x01 => 0xFFFF0000000001FE
  | 0x02 => 0xFFFF000000000FFF
  | 0x03 => 0xFFFF000000000FFF
  | 0x05 | 0x06 | 0x07 | 0x08 => 0xFFFFFFFF00000003
  | 0x09 | 0x0A => 0xFFFFFFFF0000000F
  | 0x0B | 0x0E => 0xFFFFFFFF00000000
  | 0x0C | 0x0D => 0xFFFF000000000000
  | 0x10 => 0xFFFFFFFFFFFFF8E0
  | 0x14 => 0xFFFFFFFFFFF0000C
  | 0x15 => 0xFFFFFFFFFFFFC0E0
  | 0x16 | 0x17 => 0xFFFFFFFFFFFFFFFC
  | 0x18 => 0xFFFF000000003FFE
  | _ => 0

/-- The value a read of CYC gives now: later by an open number of cycles (log 4, R154). -/
def State.cycNow (s : State) (e : Nat) : W64 := (s.eng e).cr.cyc + BitVec.ofNat 64 (Config.freeNat s.fresh)

/-- A read of a control register (R147, R167, R89, R68). -/
def State.crRead (s : State) (e n : Nat) : W64 :=
  let g := s.eng e
  let c := g.cr
  let x := s.esw e
  let tx := decide (x.tx ≠ 0)
  if crZero n && tx then 0
  else match n, g.sync.find? (fun p => p.1 = n) with
  | 0x00, some (_, w) => (x.write w (s.prForced e)).bits
  | _, some (_, w) => w
  | n, none => match n with
    | 0x00 => x.bits
    | 0x01 => c.tsbr
    | 0x02 => c.xvec
    | 0x03 => c.ptroot
    | 0x04 => 0x8000000000000000
    | 0x05 => c.sp.setWidth 64
    | 0x06 => c.oslo.setWidth 64
    | 0x07 => c.oshi.setWidth 64
    | 0x08 => c.osp.setWidth 64
    | 0x09 => c.ls.setWidth 64
    | 0x0A => c.le.setWidth 64
    | 0x0B => c.lc.setWidth 64
    | 0x0C => c.ssrc.setWidth 64
    | 0x0D => c.sdst.setWidth 64
    | 0x0E => c.scnt.setWidth 64
    | 0x0F => c.saux
    | 0x10 => c.aflag
    | 0x11 => s.cycNow e
    | 0x12 => if tx then BitVec.ofNat 64 ((g.att.elim 0 Attempt.turn) * 2 ^ 16)
      else BitVec.ofNat 64 ((s.rxNow (vatOf e)).1 * 2 ^ 16 + (s.rxNow (vatOf e)).2)
    | 0x13 => c.tkcmp
    | 0x14 => c.tkctl
    | 0x15 => BitVec.ofNat 64 (vatOf e * 2 ^ 8 + slotOf e)
    | 0x16 => BitVec.ofNat 64 (c.vs.toNat * 2 + (bit c.tkctl 1).toNat)
    | 0x17 => c.intm
    | 0x18 => c.scrw
    | n => s.feat (vatOf e) (n - 0x20)

/-- A control register takes a value at once (R147, R9). -/
def Cr.put (c : Cr) (n : Nat) (w : W64) (forced : Bool) : Cr :=
  match n with
  | 0x00 => { c with esw := c.esw.write w forced }
  | 0x01 => { c with tsbr := w }
  | 0x02 => { c with xvec := w }
  | 0x03 => { c with ptroot := w }
  | 0x05 => { c with sp := w.setWidth 32 }
  | 0x06 => { c with oslo := w.setWidth 32 }
  | 0x07 => { c with oshi := w.setWidth 32 }
  | 0x08 => { c with osp := w.setWidth 32 }
  | 0x09 => { c with ls := w.setWidth 32 }
  | 0x0A => { c with le := w.setWidth 32 }
  | 0x0B => { c with lc := w.setWidth 32 }
  | 0x0C => { c with ssrc := w.setWidth 48 }
  | 0x0D => { c with sdst := w.setWidth 48 }
  | 0x0E => { c with scnt := w.setWidth 32 }
  | 0x0F => { c with saux := w }
  | 0x10 => { c with aflag := w }
  | 0x13 => { c with tkcmp := w }
  | 0x14 => { c with tkctl := (w &&& BitVec.ofNat 64 0xFFFF1) ||| (c.tkctl &&& ~~~ w &&& 2) }
  | 0x16 => { c with vs := c.vs && !bit w 1 }
  | 0x17 => { c with intm := w }
  | 0x18 => { c with scrw := w }
  | _ => c

/-- The pending value of a synchronising register replaced (R166, R167). -/
def pendPut : List (Nat × W64) → Nat → W64 → List (Nat × W64)
  | [], n, w => [(n, w)]
  | (m, v) :: l, n, w => if m = n then (n, w) :: l else (m, v) :: pendPut l n w

/-- The check of a control register write before it has any effect (R145, R147, R169, R10). A write of PTROOT or SCRW in a
transaction raises Transaction Write Violation whatever its reserved bits hold: the order of the two is the model's
(log 16). -/
def State.crCheck (s : State) (e n : Nat) (w : W64) : Option Nat :=
  let tx := decide ((s.esw e).tx ≠ 0)
  if tx && (n = 0x03 || n = 0x18) then some xTxWrite
  else if tx && crZero n then none
  else if n = 0 && eswBad w then some xReserved
  else if w.toNat &&& crRsv n ≠ 0 then some xReserved
  else none

/-- A control register write that passed its check (R166, R89). -/
def State.crPut (s : State) (e n : Nat) (w : W64) : State :=
  if (s.esw e).tx ≠ 0 && crZero n then s
  else if crSync n then s.modEng e fun g => { g with sync := pendPut g.sync n w }
  else s.modEng e fun g => { g with cr := g.cr.put n w (s.prForced e) }

/-- Every pending value takes effect (R166). -/
def State.syncEvent (s : State) (e : Nat) : State :=
  s.modEng e fun g =>
    { g with cr := g.sync.foldl (fun c p => c.put p.1 p.2 (s.prForced e)) g.cr, sync := [] }

end Sys2Proof.Machine
end

