-- ==== Sys2Proof/Machine/Attempt.lean ====
section
/-! DEFINITION. Attempts at transactions on an engine: configuration sets and descriptors (R76, R107), the begin state
(R75, R147, R164, R493), and the ends of an attempt (R77 to R79, R85, R204). -/

namespace Sys2Proof.Machine

/-! ### Configuration sets (R106, R107) -/

/-- The turn from which a set is in force: its effective turn; the set that a warm restart restored is in force at once, though
its effective turn may be later (R571). -/
def State.effOf (s : State) (c : CfgSet) : Nat := if s.via.floor = some c.ver then 0 else c.eff

/-- The configuration set in force for a turn: the one with the latest effective turn at or before it. -/
def State.setFor (s : State) (turn : Nat) : Option CfgSet :=
  s.via.sets.foldl (fun acc c =>
    if s.effOf c ≤ turn && (acc.elim true fun b => s.effOf b ≤ s.effOf c) then some c else acc) none

/-- A configuration set by version. -/
def State.setVer (s : State) (v : Nat) : Option CfgSet := s.via.sets.find? fun c => c.ver = v

/-- The most recently activated configuration set (R574). -/
def State.setLast (s : State) : Option CfgSet :=
  s.via.sets.foldl (fun acc c => if acc.elim true fun b => b.ver < c.ver then some c else acc) none

/-- The descriptor of a recipe id (R76). -/
def CfgSet.desc (c : CfgSet) (rid : Nat) : Option (List Byte) := c.descs.find? fun d => numAt d 0 2 = rid

/-! ### Statistics of the Press (R137) -/

/-- A Press statistic counted once, and at given slices. -/
def State.stat (s : State) (i : Nat) (slices : List Nat) : State :=
  let s := s.modPrs fun p => { p with stats := p.stats.put i (satAdd (p.stats.get i 0) 1) }
  slices.foldl (fun s v => s.modVat v fun x => { x with cnt := x.cnt.put i (satAdd (x.cnt.get i 0) 1) }) s

/-- A stall counter raised by an open number of mesh cycles, at its slice and device-wide (R137, log 4). -/
def State.stallCount (s : State) (i v : Nat) : State :=
  let n := Config.freeNat s.fresh
  let s := s.modPrs fun p => { p with stats := p.stats.put i (satAdd (p.stats.get i 0) n) }
  (s.modVat v fun x => { x with cnt := x.cnt.put i (satAdd (x.cnt.get i 0) n) }).draw

/-- The slices that home a line a transaction registered or wrote, each once. -/
def State.slicesOf (s : State) (lines : List Nat) : List Nat :=
  allVats.filter fun v => lines.any fun l => s.homeVat (l * 64) = v

/-- Recipe id of a transaction's frame. -/
def Tx.rid (t : Tx) : Nat := numAt t.header 12 2

/-- A recipe's counts changed (R124). -/
def State.modRecipe (s : State) (rid : Nat) (f : Recipe → Recipe) : State :=
  s.modPrs fun p => { p with recipes := p.recipes.put rid (f (p.recipes.get rid {})) }

/-- A speculative attempt ended by seal or stop (R124, R137). -/
def State.countAttempt (s : State) (t : Tx) (lines : List Nat) : State :=
  (s.stat 0 (s.slicesOf lines)).modRecipe t.rid fun r => { r with att := r.att + 1 }

/-! ### The begin state -/

/-- The dispatch record (R493). -/
def dispatchRecord (key : Nat) (t : Tx) : List Byte :=
  keyBytes key ++ [if t.peek then 2 else 1, 0] ++ toBytes 2 t.rid ++ toBytes 2 t.payload.length ++
    List.replicate 10 0 ++ slice t.header 0 32 ++ t.payload

/-- Eight bank registers from bytes. -/
def banksOf (l : List Byte) (off : Nat) : List (BitVec 16) :=
  (List.range 8).map fun i => BitVec.ofNat 16 (numAt l (off + 2 * i) 2)

/-- An engine at the begin of an attempt (R75, R147 column Begin, R164). A pending value of INTM, which begin leaves
unchanged, stays pending; of a register that begin sets, none does (log 16). -/
def Eng.begin (g : Eng) (c : CfgSet) (d : List Byte) (key : Nat) (t : Tx) (precise strict : Bool) (back : Wait)
    (snap : Nat) : Eng :=
  { g with
    t := List.replicate 32 0, p := 1, b := banksOf d 16,
    cr := { g.cr with
      esw := {
        cb := BitVec.ofNat 16 (numAt d 4 2), sb := BitVec.ofNat 16 (numAt d 6 2),
        drnd := BitVec.ofNat 3 (numAt d 32 1), dfrnd := BitVec.ofNat 3 (numAt d 33 1),
        dfte := BitVec.ofNat 5 (numAt d 34 1), dxe := 7, key := BitVec.ofNat 4 (numAt d 32 1 / 16),
        tx := if t.peek then 2 else 1, pr := precise || strict, ie := true, priv := true },
      tsbr := c.tsbr, xvec := c.xvec, ptroot := c.root, sp := BitVec.ofNat 32 (numAt d 12 4),
      oslo := 0, oshi := 0, osp := 0, ls := 0, le := 0, lc := 0, ssrc := 0, sdst := 0, scnt := 0, saux := 0,
      aflag := 0, scrw := c.scrw },
    sync := g.sync.filter fun p => decide (p.1 = 0x17), pc := BitVec.ofNat 32 (numAt d 8 4), bt := 0, prog := {}, hand := {}, hset := false,
    dd := none, df := none, str := none, missing := none, imp := none, wait := none,
    mem := { g.mem with scratch := writeBytes [] 0 (dispatchRecord key t) },
    att := some {
      key := key, peek := t.peek, solo := t.solo, precise := precise, turn := t.turn, snap := snap, cfg := t.cfg,
      count := 0, blimit := numAt d 3 1, whey := [], back := back } }

/-- An attempt at a transaction begins on an engine (R75), resuming later where a wait said. -/
def State.beginAttempt (s : State) (e key : Nat) (precise : Bool) (back : Wait) : State :=
  match s.prs.txs.find key with
  | none => s
  | some t => match (s.setVer t.cfg).bind fun c => (c.desc t.rid).map fun d => (c, d) with
    | none => s
    | some (c, d) =>
      let s := s.modTx key fun t => { t with phase := .running e, precise := precise }
      s.modEng e fun g => g.begin c d key t precise (decide (s.dev.mode = 5)) back (s.snapOf t)

/-! ### Divides that complete (R244 to R246, R278) -/

/-- The port set in use. -/
def Eng.ports (g : Eng) : Ports := if g.hset then g.hand else g.prog

/-- The engine with a port set changed. -/
def Eng.setPorts (g : Eng) (handler : Bool) (f : Ports → Ports) : Eng :=
  if handler then { g with hand := f g.hand } else { g with prog := f g.prog }

/-- AFLAG bits set (R153). -/
def Eng.flags (g : Eng) (bits : Nat) : Eng := { g with cr := { g.cr with aflag := g.cr.aflag ||| BitVec.ofNat 64 bits } }

/-- An imprecise condition noted: the first is kept, later ones counted. The report is due at the 16th bundle after the
oldest bundle that triggered one of them (R384). -/
def Eng.note (g : Eng) (i : Imprecise) : Eng :=
  { g with imp := some (match g.imp with
    | none => i
    | some j => { j with more := j.more + 1, at_ := min j.at_ i.at_ }) }

/-- Whether the exception of a condition is enabled (R252). -/
def Esw.enabled (x : Esw) (c : DCond) : Bool :=
  match c with
  | .data => x.dxe.getLsbD 2 | .overflow => x.dxe.getLsbD 1 | .divZero => x.dxe.getLsbD 0

/-- The result of a running DD divide under the mode it resolved (R244, R246). -/
def DdRun.res (d : DdRun) : URes := ddDiv d.o d.t d.opmod.toNat d.drnd.toNat

/-- A DD divide completes (R245): DQ and DRM, the AFLAG bit, and the imprecise record of a condition that ESW.DXE enabled
as the divide was triggered (R252). -/
def State.ddDone (s : State) (e : Nat) : State :=
  match (s.eng e).dd with
  | none => s
  | some d =>
    let r := d.res
    s.modEng e fun g =>
      let g := { g.setPorts d.handler fun p => { p with dq := r.r, drm := r.r2 } with dd := none }
      match r.cond with
      | none => g
      | some c =>
        let g := g.flags (aflagOf c)
        if d.on then g.note {
          trig := 0x290, slot := d.slot, kind := kindOf c, dest := 0x281, org := d.org, at_ := d.at_ } else g

/-- The result of a running DF div: the value and its flags (R278). -/
def DfRun.res (d : DfRun) : BitVec 128 × Nat :=
  let w := decide (d.opmod.toNat % 2 = 1)
  let v (x : DfLatch) : Nat := if w then x.hi.toNat * 2 ^ 64 + x.lo.toNat else x.hi.toNat
  let r := dfDiv w (rdOf (d.opmod.toNat / 2 % 8) d.dfrnd.toNat) (dfDec w (v d.o)) (dfDec w (v d.t))
  (BitVec.ofNat 128 (dfEnc w r.1), r.2)

/-- Whether a busy DD divide will raise an enabled condition, which the engine has not decided yet (R384). -/
def Eng.owes (g : Eng) : Bool := g.dd.elim false DdRun.on

/-- A DF div completes (R278): DF.r and its flags. -/
def State.dfDone (s : State) (e : Nat) : State :=
  match (s.eng e).df with
  | none => s
  | some d =>
    let r := d.res
    s.modEng e fun g => { (g.flags r.2).setPorts d.handler fun p => { p with
      dfr := ⟨r.1, decide (d.opmod.toNat % 2 = 1)⟩ } with df := none }

/-! ### The ends of an attempt -/

/-- The engine continues as R204 states; a divide still running sets its AFLAG bits (R252, R262). -/
def State.endOn (s : State) (e : Nat) : State :=
  match (s.eng e).att with
  | none => s
  | some a => ((s.ddDone e).dfDone e).modEng e fun g => g.endAttempt a

/-- The attempt is rolled back and begins again at once with PR at 1 (R83, R386). -/
def State.rollBack (s : State) (e : Nat) : State :=
  match (s.eng e).att with
  | none => s
  | some a => (s.modTx a.key Tx.again).beginAttempt e a.key true a.back

/-- Whether an imprecise condition is pending or still to be decided. -/
def Eng.doubtful (g : Eng) : Bool := g.imp.isSome || g.owes

/-- A seal with an outcome and payload (R77, R94, R121): a peek ends; a posting waits sealed for the Press. While an
imprecise condition of the attempt is pending or owed, of the sealing bundle's own triggers too, the attempt is rolled back
in its place, so that the outcome is that of precise delivery (R83, R110, R254). -/
def State.seal (s : State) (e outcome : Nat) (payload : List Byte) : State :=
  match (s.eng e).att with
  | none => s
  | some a =>
    if (s.eng e).doubtful then s.rollBack e else
    let s := s.endOn e
    if a.peek then s.peekEnd a.key outcome payload
    else match s.prs.txs.find a.key with
      | none => s
      | some t =>
        let lines := t.reads ++ linesOf a.whey
        let s := s.modTx a.key fun t => { t with
          phase := .sealed e, outcome := outcome, result := payload, acked := false,
          writes := if outcome = 0 then a.whey else [], wrote := linesOf a.whey }
        if a.solo then
          let s := s.stat 3 (s.slicesOf lines)
          if t.throt then s.stat 4 (s.slicesOf lines) else s
        else s.countAttempt t lines

/-- The attempt is abandoned and its posting queued as a solo run (R78). -/
def State.goSolo (s : State) (e : Nat) : State :=
  match (s.eng e).att with
  | none => s
  | some a => (s.endOn e).modTx a.key fun t => { t.again with solo := true, precise := false }

/-- The bundle count rises (R79). -/
def Eng.countUp (g : Eng) : Eng := { g with att := g.att.map fun a => { a with count := a.count + 1 } }

/-- Whether the bundle count has reached its limit (R79): nothing more issues until the attempt ends with LIMIT. -/
def Eng.atLimit (g : Eng) : Bool := g.att.elim false fun a => decide (2 ^ a.blimit ≤ a.count)

end Sys2Proof.Machine
end

