-- ==== Sys2Proof/Machine/Mmu.lean ====
section
/-! DEFINITION. Address formation, the walk, the TLBs, the checks of every access (R304 to R327, R335 to R338), the
scratch window (R163), the store buffer (R354 to R359) and ledger accesses inside transactions (R85 to R91, R117 to
R119). -/

namespace Sys2Proof.Machine

/-- What ends an engine command other than retirement: an exception, an uncorrectable error inside a transaction (R396),
an attempt that goes solo (R78), reaches its limit (R79, R85) or is rolled back (R83), an engine stop (R402), one of Rennet with its
microaddress (R416), a stall
(R183) with nothing done, a registration that stalls at a slice (R120), or operands that do not spell the row. -/
inductive Halt where
  | exc (x : Exc)
  | ue (pa finder : Nat)
  | solo
  | limit
  | rollback
  | stop (sub port : Nat)
  | micro (sub port ea : Nat)
  | stall
  | regStall (slice : Nat)
  | refuse
  deriving DecidableEq, Repr

/-- A check: the state with the TLB fills and drains it made, and its outcome. -/
abbrev Prep (α : Type) := State × Except Halt α

/-- The kind of an access (R376). -/
inductive Acc where
  | fetch | load | store | rmw
  deriving DecidableEq, Repr

/-- ACC of FINFO. -/
def Acc.code : Acc → Nat
  | .fetch => 0 | .load => 1 | .store => 2 | .rmw => 3

/-- Whether an access stores. -/
def Acc.writes : Acc → Bool
  | .store => true | .rmw => true | _ => false

/-- What the checks of an access use of the engine: privilege, key, TX and root (R161, R318, R336). -/
structure Ctx where
  priv : Bool
  key : Nat
  tx : Nat
  root : Nat
  deriving DecidableEq, Repr

/-- The context of the running code; key 0 in Salvage (R400). -/
def State.ctx (s : State) (e : Nat) : Ctx :=
  let c := (s.eng e).cr
  ⟨c.esw.priv, if c.esw.salv then 0 else c.esw.key.toNat, c.esw.tx.toNat, fld c.ptroot 47 12⟩

/-- The context of an entry or of RETX: supervisor, key 0 (R380, R382). -/
def State.supCtx (s : State) (e : Nat) : Ctx := { s.ctx e with priv := true, key := 0 }

/-- FINFO of an access fault (R376). -/
def finfoOf (acc : Acc) (n : Nat) (part : Bool) (level : Nat) (walk : Bool) (pa : Nat) : Nat :=
  acc.code * 2 ^ 60 + (if acc = .fetch then 15 else min (n - 1) 15) * 2 ^ 56 + level * 2 ^ 54 + part.toNat * 2 ^ 53 + walk.toNat * 2 ^ 52 + pa

/-! ### The walk (R307 to R313) -/

/-- Low bits of a page at a level (R307). -/
def pageBits (level : Nat) : Nat := 12 + 9 * level

/-- Whether a valid entry is malformed at its level (R310). -/
def pteBad (w : W64) (level : Nat) : Bool :=
  let leaf := decide (level = 0) || bit w 1
  let mt := fld w 61 60
  decide (fld w 63 62 ≠ 0) || decide (fld w 51 48 ≠ 0) || decide (fld w 11 10 ≠ 0) ||
  (bit w 1 && (decide (level = 3) || decide (level = 0))) ||
  (if leaf then
    decide (w.toNat % 2 ^ pageBits level / 2 ^ 12 ≠ 0) || (bit w 3 && !bit w 2) ||
      (bit w 9 != decide (mt = 1)) || (bit w 4 && (bit w 9 || decide (mt = 2)))
  else decide (fld w 9 2 ≠ 0) || decide (mt ≠ 0))

/-- The walk from a table on (R313): the leaf and its level, or the exception. Entries are read as vat v sees them. -/
def State.walkFrom (v : Nat) (ue : List Nat) (tx : Bool) (va fi : Nat) : List Nat → Nat → State → Prep (W64 × Nat)
  | [], _, s => (s, .error .refuse)
  | lv :: rest, table, s =>
    let pa := table + 8 * (va / 2 ^ pageBits lv % 512)
    let fail (cls sub : Nat) : Prep (W64 × Nat) :=
      (s, .error (.exc { cls := cls, sub := sub, faddr := va, finfo := fi + lv * 2 ^ 54 + 2 ^ 52 + pa }))
    match s.region pa with
    | .device | .firmware | .ledger => fail xWalkRegion 0
    | .none_ => fail xWalkBus 0
    | .plain =>
      if s.bad ue pa then
        if tx then (s, .error (.ue pa 1))
        else (s.ueRecord pa 1 false, .error (.exc {
          cls := xWalkBus, sub := 1, faddr := va, finfo := fi + lv * 2 ^ 54 + 2 ^ 52 + pa }))
      else
        let w : W64 := BitVec.ofNat 64 (ofBytes (s.seenN v pa 8))
        if !bit w 0 then fail xNotValid 0
        else if pteBad w lv then fail xFormat 0
        else if lv = 0 || bit w 1 then (s, .ok (w, lv))
        else State.walkFrom v ue tx va fi rest (fld w 47 12 * 2 ^ 12) s

/-! ### TLBs (R317 to R320) -/

/-- Whether an entry matches an access (R318). -/
def Tlb.hits (t : Tlb) (va root : Nat) : Bool :=
  decide (va / 2 ^ t.size = t.va) && (bit t.leaf 6 || decide (t.root = root))

/-- Whether an entry's page overlaps a page given by its size and number. -/
def Tlb.overlaps (t : Tlb) (size page : Nat) : Bool :=
  if t.size ≤ size then decide (t.va / 2 ^ (size - t.size) = page) else decide (page / 2 ^ (t.size - size) = t.va)

/-- An entry put into a TLB of a given capacity; replacement is open (R317, log 4). -/
def tlbPut (l : List Tlb) (cap pick : Nat) (t : Tlb) : List Tlb :=
  if l.length < cap then l ++ [t] else l.set (pick % cap) t

/-- Every TLB of a vat emptied of the entries a test names, the vat TLB and the L1 TLBs of its engines. -/
def State.tlbDrop (s : State) (v : Nat) (p : Tlb → Bool) : State :=
  let keep (l : List Tlb) := l.filter fun t => !p t
  let s := s.modVat v fun x => { x with tlb := keep x.tlb }
  { s with engs := s.engs.map fun g => if vatOf g.1 = v then
      (g.1, { g.2 with mem := { g.2.mem with itlb := keep g.2.mem.itlb, dtlb := keep g.2.mem.dtlb } }) else g }

/-- Translation Multi-hit (R319): the TLBs of the vat are cleared; inside a transaction the engine stops (R394). -/
def State.multiHit {α : Type} (s : State) (e va fi tx : Nat) : Prep α :=
  (s.tlbDrop (vatOf e) (fun _ => true),
    .error (if tx = 0 then .exc { cls := xMcheck, sub := 1, faddr := va, finfo := fi } else .stop 1 0))

/-- Index of the key byte of a frame (R337). -/
def keyIdx (pa : Nat) : Nat := if isHbm pa then pa / 4096 else 2 ^ 24 + (pa - ddrBase) / 4096

/-- Where the key store keeps a key byte: from the base of RGN_FWD (log 10). -/
def State.keyPa (s : State) (i : Nat) : Nat := rgnBase s.via.rgnFwd + i

/-- What a translation gives. -/
structure Xl where
  pa : Nat
  leaf : W64
  key : Byte
  deriving DecidableEq, Repr

/-- The fault of a final frame (R29). -/
def State.frameFault (s : State) (pa : Nat) (l : Bool) : Option Nat :=
  match s.region pa with
  | .device | .firmware => some xWalkRegion
  | .ledger => if l then none else some xWalkRegion
  | .plain => if l then some xWalkRegion else none
  | .none_ => some xBus

/-- The key byte of a frame, read for a fill (R317, R338). -/
def State.keyByte (s : State) (ue : List Nat) (tx : Nat) (pa va fi : Nat) : Prep Byte :=
  let k := s.keyPa (keyIdx pa)
  if bit s.via.rgnFwd 0 && s.bad ue k then
    if tx ≠ 0 then (s, .error (.ue k 2))
    else (s.ueRecord k 2 false, .error (.exc { cls := xBus, sub := 1, faddr := va, finfo := fi }))
  else (s, .ok (readByte s.mem.keys (keyIdx pa)))

/-- The L1 TLB of an access filled with the 4 KiB part of a leaf that holds the byte (R317). -/
def State.fillL1 (s : State) (e : Nat) (fetch : Bool) (t : Tlb) : State :=
  let pick := Config.freeNat s.fresh
  let s := s.modEng e fun g => { g with mem :=
    if fetch then { g.mem with itlb := tlbPut g.mem.itlb 32 pick t }
    else { g.mem with dtlb := tlbPut g.mem.dtlb 64 pick t } }
  s.draw

/-- The vat TLB looks for an entry that clashes with a new leaf (R319): some true for the same leaf, some false for one
that differs. -/
def vatClash (l : List Tlb) (t : Tlb) : Option Bool :=
  let hit := l.filter fun x => x.overlaps t.size t.va && (bit x.leaf 6 || bit t.leaf 6 || decide (x.root = t.root))
  if hit.isEmpty then none
  else some (hit.all fun x => x.va = t.va && x.size = t.size && x.pa = t.pa &&
    x.leaf &&& maskOf 61 60 = t.leaf &&& maskOf 61 60 && fld x.leaf 9 2 = fld t.leaf 9 2)

/-- The translation of one address (R312): L1 TLB, vat TLB, walk. -/
def State.translate (s : State) (e : Nat) (ue : List Nat) (c : Ctx) (acc : Acc) (va fi : Nat) : Prep Xl :=
  let g := s.eng e
  let fetch := decide (acc = .fetch)
  let frame (s : State) (pa : Nat) (leaf : W64) : Option Halt :=
    (s.frameFault pa (bit leaf 9)).map fun cls => .exc { cls := cls, faddr := va, finfo := fi + pa }
  let fill (s : State) (pa : Nat) (leaf : W64) : Prep Xl :=
    match s.keyByte ue c.tx pa va fi with
    | (s, .error h) => (s, .error h)
    | (s, .ok k) =>
      (s.fillL1 e fetch ⟨va / 4096, 12, pa / 4096 * 4096, leaf, c.root, k⟩, .ok ⟨pa, leaf, k⟩)
  match (if fetch then g.mem.itlb else g.mem.dtlb).find? (fun t => t.hits va c.root) with
  | some t =>
    let pa := t.pa + va % 4096
    match frame s pa t.leaf with
    | some h => (s, .error h)
    | none => (s, .ok ⟨pa, t.leaf, t.key⟩)
  | none =>
    match (s.vat (vatOf e)).tlb.filter (fun t => t.hits va c.root) with
    | _ :: _ :: _ => s.multiHit e va fi c.tx
    | [t] =>
      let pa := t.pa + va % 2 ^ t.size
      match frame s pa t.leaf with
      | some h => (s, .error h)
      | none => fill s pa t.leaf
    | [] =>
      match State.walkFrom (vatOf e) ue (decide (c.tx ≠ 0)) va fi [3, 2, 1, 0] (c.root * 4096)
          ((s.sbDrain e).learn (vatOf e)) with
      | (s, .error h) => (s, .error h)
      | (s, .ok (leaf, lv)) =>
        let size := pageBits lv
        let base := fld leaf 47 12 * 4096
        let pa := base + va % 2 ^ size
        match frame s pa leaf with
        | some h => (s, .error h)
        | none =>
          if !bit leaf 7 then
            match s.keyByte ue c.tx pa va fi with
            | (s, .error h) => (s, .error h)
            | (s, .ok k) => (s, .ok ⟨pa, leaf, k⟩)
          else
            let t : Tlb := ⟨va / 2 ^ size, size, base, leaf, c.root, 0⟩
            match vatClash (s.vat (vatOf e)).tlb t with
            | some false => s.multiHit e va fi c.tx
            | some true => fill s pa leaf
            | none =>
              let pick := Config.freeNat s.fresh
              fill ((s.modVat (vatOf e) fun x => { x with tlb := tlbPut x.tlb 2048 pick t }).draw) pa leaf

/-- Permission (R322). -/
def permitted (c : Ctx) (acc : Acc) (w : W64) : Bool :=
  match acc with
  | .fetch => bit w 4 && (bit w 5 != c.priv)
  | .load => bit w 2 && (c.priv || bit w 5)
  | _ => bit w 3 && (c.priv || bit w 5)

/-- The storage key check (R336). -/
def keyPasses (key : Nat) (acc : Acc) (k : Byte) : Bool :=
  decide (key = 0) || decide (k.toNat / 16 = key) || (!acc.writes && !k.getLsbD 3)

/-- The checks after translation, orders 5 to 9 of R321: the class that applies first. -/
def checkLeaf (c : Ctx) (acc : Acc) (x : Xl) : Option Nat :=
  let l := bit x.leaf 9
  if !permitted c acc x.leaf then some xDenied
  else if l && decide (c.tx = 0) then some xLedger
  else if acc.writes && decide (c.tx ≠ 0) && (!l || decide (c.tx = 2)) then some xTxWrite
  else if !keyPasses c.key acc x.key then some xKey
  else if !bit x.leaf 7 || (acc.writes && !bit x.leaf 8) then some xMark
  else none

/-! ### Whole accesses (R305, R321, R323) -/

/-- One part of an access: its bytes within one line. -/
structure Part where
  idx : Nat
  len : Nat
  va : Nat
  pa : Nat
  leaf : W64
  deriving DecidableEq, Repr

/-- Where an access goes. -/
inductive Place where
  | scratch (off : Nat)
  | parts (l : List Part)
  deriving DecidableEq, Repr

/-- The parts of n bytes from an offset: index and length, cut at lines and at the bank wrap (R357). -/
def cuts (off : Nat) : Nat → Nat → Nat → List (Nat × Nat)
  | 0, _, _ => []
  | _, _, 0 => []
  | f + 1, i, n =>
    let k := min n (64 - (off + i) % 64)
    (i, k) :: cuts off f (i + k) (n - k)

/-- Whether a byte lies in the scratch window in force (R163). -/
def inScratch (scrw : W64) (bank off : Nat) : Bool :=
  bit scrw 0 && decide (bank = fld scrw 47 32) && decide (off % 2 ^ 32 / 2 ^ 14 = fld scrw 31 14)

/-- A store's Mark removes the page's entry from the L1 data TLB and the vat TLB (R325). -/
def State.markDrop (s : State) (e va root : Nat) : State :=
  let s := s.modEng e fun g => { g with mem := { g.mem with dtlb := g.mem.dtlb.filter fun t => !t.hits va root } }
  s.modVat (vatOf e) fun x => { x with tlb := x.tlb.filter fun t => !t.hits va root }

/-- The parts of an access translated and checked in turn: the parts that pass and the faults, each with the offset it
is reported at. -/
def State.checkParts (e : Nat) (ue : List Nat) (c : Ctx) (acc : Acc) (bank off n : Nat) :
    List (Nat × Nat) → State → State × List Part × List (Nat × Halt)
  | [], s => (s, [], [])
  | (i, k) :: rest, s =>
    let o := (off + i) % 2 ^ 32
    let back := min i (o % 4096)
    let va := bank * 2 ^ 32 + (o - back)
    let fi := finfoOf acc n (decide (0 < i)) 0 false 0
    let r : Prep Xl := match s.translate e ue c acc (bank * 2 ^ 32 + o) fi with
      | (s, .error (.exc x)) => (s, .error (.exc { x with faddr := va }))
      | (s, .error h) => (s, .error h)
      | (s, .ok x) => match checkLeaf c acc x with
        | some cls =>
          (if cls = xMark && acc.writes then s.markDrop e (bank * 2 ^ 32 + o) c.root else s,
            .error (.exc { cls := cls, faddr := va, finfo := fi }))
        | none => (s, .ok x)
    match r with
    | (s, .error h) =>
      let (s, ps, fs) := State.checkParts e ue c acc bank off n rest s
      (s, ps, (o, h) :: fs)
    | (s, .ok x) =>
      let (s, ps, fs) := State.checkParts e ue c acc bank off n rest s
      (s, ⟨i, k, bank * 2 ^ 32 + o, x.pa, x.leaf⟩ :: ps, fs)

/-- The fault reported: the one at the lower offset (R323). -/
def lowest : List (Nat × Halt) → Option Halt
  | [] => none
  | (o, h) :: l => if l.any fun p => decide (p.1 < o) then lowest l else some h

/-- An uncorrectable error on a line that a load or fetch reads (R529, R396). -/
def State.ueCheck (ue : List Nat) (tx : Nat) (acc : Acc) (n : Nat) (first : Nat) : List Part → State → Prep Unit
  | [], s => (s, .ok ())
  | p :: l, s =>
    if s.bad ue p.pa then
      if tx ≠ 0 then (s, .error (.ue p.pa 0))
      else (s.ueRecord p.pa 0 false, .error (.exc {
        cls := xBus, sub := 1,
        faddr := if p.va / 4096 = first / 4096 then first else p.va,
        finfo := finfoOf acc n (decide (0 < p.idx)) 0 false 0 }))
    else State.ueCheck ue tx acc n first l s

/-- Whether a store of a part changes a line only in part: an uncorrectable error of the line is then one of the store
(R529). A ledger store goes to the whey buffer. -/
def Part.merges (p : Part) : Bool := decide (p.len < 64) && !bit p.leaf 9

/-- An access of n bytes passes the checks of R321, or raises the first that applies. -/
def State.access (s : State) (e : Nat) (ue : List Nat) (c : Ctx) (acc : Acc) (bank off n align : Nat) : Prep Place :=
  let va := bank * 2 ^ 32 + off
  let fi := finfoOf acc n false 0 false 0
  if off % align ≠ 0 then (s, .error (.exc { cls := xAlign, faddr := va, finfo := fi }))
  else
    let inside := (List.range n).filter fun i => inScratch (s.eng e).cr.scrw bank (off + i)
    if acc ≠ .fetch && inside.length = n then (s, .ok (.scratch (off % 2 ^ 14)))
    else if acc ≠ .fetch && !inside.isEmpty then (s, .error (.exc { cls := xStraddle, faddr := va, finfo := fi }))
    else
      let (s, ps, fs) := State.checkParts e ue c acc bank off n (cuts off n 0 n) s
      match lowest fs with
      | some h => (s, .error h)
      | none => match State.ueCheck ue c.tx acc n va (if acc = .store then ps.filter Part.merges else ps) s with
        | (s, .error h) => (s, .error h)
        | (s, .ok _) => (s, .ok (.parts ps))

/-! ### The ledger inside a transaction (R87, R91, R117 to R119) -/

/-- A byte of the released ledger: released and not written back, or memory (R95). -/
def State.relByte (s : State) (a : Nat) : Byte := (getByte s.prs.back a).getD (s.rd a)

/-- A byte with every staged commit (R87). -/
def State.stagedByte (s : State) (a : Nat) : Byte :=
  (s.prs.batches.foldl (fun acc b => (getByte b.2.staged a) <|> acc) none).getD (s.relByte a)

/-- A byte before batch k was released (R91, R93): the earliest release from k on that changed it holds its prior
value. -/
def State.snapByte (s : State) (k a : Nat) : Byte :=
  ((s.prs.versions.filter fun p => decide (k ≤ p.1)).foldr (fun p acc => (getByte p.2 a) <|> acc) none).getD (s.relByte a)

/-- One access of a wheel's line counted at its home (R128). -/
def State.countAccess (s : State) (e a : Nat) : State :=
  let w := s.wheelOf a
  s.modPrs fun p =>
    let x := p.wheels.get w {}
    { p with wheels := p.wheels.put w { x with
      n := x.n + 1, sr := x.sr + vatOf e / 8, sc := x.sc + vatOf e % 8 } }

/-- Lines registered at a slice (R120). -/
def State.regsAt (s : State) (v : Nat) : Nat :=
  s.prs.txs.foldl (fun n t => n + (t.2.reads.filter fun l => decide (s.homeVat (l * 64) = v)).length) 0

/-- The head of the commit stream: the earliest-keyed posting (R122). -/
def State.headKey (s : State) : Option Nat := (s.prs.txs.find? fun t => !t.2.peek).map Prod.fst

/-- A part of a ledger load performed (R87, R118, R119): registration, then the bytes. A moving wheel holds every request
for its lines (R131). -/
def State.ledgerLoad (s : State) (e : Nat) (a : Attempt) (p : Part) : Except Halt (State × List Byte) :=
  let addrs := (List.range p.len).map (p.pa + ·)
  let moving := (s.prs.moving.find (s.wheelOf p.pa)).isSome
  if a.peek then
    if moving then .error .stall else .ok (s.countAccess e p.pa, addrs.map (s.snapByte a.snap))
  else
    let val := addrs.map fun x => (getByte a.whey x).getD (s.stagedByte x)
    let needs := addrs.any fun x => (getByte a.whey x).isNone
    let reads := (s.prs.txs.find a.key).elim [] Tx.reads
    let line := p.pa / 64
    if !needs || (!a.solo && reads.contains line && !moving) then .ok (s, val)
    else if !a.solo && !reads.contains line && decide (2048 ≤ reads.length) then .error .solo
    else if moving then .error .stall
    else if a.solo then .ok (s, val)
    else if s.headKey ≠ some a.key && 65536 - 2048 ≤ s.regsAt (s.homeVat p.pa) then .error (.regStall (s.homeVat p.pa))
    else .ok ((s.modTx a.key fun t => { t with reads := line :: t.reads }).countAccess e p.pa, val)

/-- A part of a ledger store performed into the whey buffer (R88, R119), within its limits (R78, R85). -/
def State.ledgerStore (s : State) (e : Nat) (a : Attempt) (p : Part) (bs : List Byte) : Except Halt State :=
  let w := overBytes a.whey p.pa bs
  let n := (linesOf w).length
  if a.solo then
    if 16384 < n then .error .limit else .ok (s.modEng e fun g => { g with att := some { a with whey := w } })
  else if 512 < n then .error .solo
  else .ok (s.modEng e fun g => { g with att := some { a with whey := w } })

/-! ### Loads and stores performed -/

/-- Whether a store-buffer entry shares a byte with a range. -/
def SbEntry.meets (x : SbEntry) (pa n : Nat) : Bool :=
  decide (x.pa < pa + n) && decide (pa < x.pa + x.bytes.length)

/-- Whether a store-buffer entry holds every byte of a range. -/
def SbEntry.covers (x : SbEntry) (pa n : Nat) : Bool :=
  decide (x.pa ≤ pa) && decide (pa + n ≤ x.pa + x.bytes.length)

/-- Whether a part of a load waits for the store buffer (R355): the youngest overlapping entry lacks a byte of it. -/
def State.sbPartial (s : State) (e : Nat) (p : Part) : Bool :=
  match (s.eng e).mem.sbuf.reverse.find? (fun x => x.meets p.pa p.len) with
  | some x => !x.covers p.pa p.len
  | none => false

/-- One byte as the engine's own loads see it: the youngest store-buffer entry that holds it, or what its vat sees (R343,
R346). -/
def State.ownByte (s : State) (e a : Nat) : Byte :=
  match (s.eng e).mem.sbuf.reverse.find? (fun x => x.meets a 1) with
  | some x => x.bytes.getD (a - x.pa) 0
  | none => s.seen (vatOf e) a

/-- n bytes as the engine's own loads see them. -/
def State.ownBytes (s : State) (e a n : Nat) : List Byte := (List.range n).map fun i => s.ownByte e (a + i)

/-- A part of a load waits for the store buffer (R355): while the youngest entry that shares a byte with it lacks another,
that entry and every older one are written. -/
def State.sbYield (s : State) (e : Nat) (p : Part) : State :=
  let l := (s.eng e).mem.sbuf
  if s.sbPartial e p then
    (List.range (l.length - (l.reverse.findIdx fun x => x.meets p.pa p.len))).foldl (fun s _ => s.sbWrite e) s
  else s

/-- A part of a load performed. A device load waits until every earlier store is performed everywhere (R348); any other reads
memory as far as other vats' stores have come (R347), behind the store-buffer entries it has to wait for (R355). A part of a split load that had to wait may have read when the load
issued; which, is open (R360, log 4). -/
def State.loadPart (s : State) (e : Nat) (p : Part) : Except Halt (State × List Byte) :=
  match bit p.leaf 9, (s.eng e).att with
  | true, some a => s.ledgerLoad e a p
  | _, _ =>
    let s := if fld p.leaf 61 60 = 2 then (s.sbDrain e).landOwn e else (s.sbYield e p).learn (vatOf e)
    let now := s.ownBytes e p.pa p.len
    match (s.eng e).mem.early.find? fun x => x.1 = p.pa && x.2.length = p.len with
    | none => .ok (s, now)
    | some x => .ok (s.draw, if Config.freeNat s.fresh % 2 = 1 then x.2 else now)

/-- The parts of a load performed in order. -/
def State.loadParts (e : Nat) : List Part → State → Except Halt (State × List Byte)
  | [], s => .ok (s, [])
  | p :: l, s => match s.loadPart e p with
    | .error h => .error h
    | .ok (s, b) => match State.loadParts e l s with
      | .error h => .error h
      | .ok (s, r) => .ok (s, b ++ r)

/-- A load of n bytes performed. -/
def State.load (s : State) (e : Nat) (x : Place) (n : Nat) : Except Halt (State × List Byte) :=
  match x with
  | .scratch o => .ok (s, readBytes (s.eng e).mem.scratch o n)
  | .parts l => State.loadParts e l s

/-- A part of a store performed: into the whey buffer, or a store-buffer entry; a full buffer stalls (R354, R355). -/
def State.storePart (s : State) (e : Nat) (p : Part) (bs : List Byte) : Except Halt State :=
  match bit p.leaf 9, (s.eng e).att with
  | true, some a => s.ledgerStore e a p bs
  | _, _ =>
    if 16 ≤ (s.eng e).mem.sbuf.length then .error .stall
    else .ok (s.modEng e fun g => { g with mem := { g.mem with
      sbuf := g.mem.sbuf ++ [⟨BitVec.ofNat 48 p.va, p.pa, bs, decide (fld p.leaf 61 60 = 2)⟩] } })

/-- The parts of a store performed in order. -/
def State.storeParts (e : Nat) (bs : List Byte) : List Part → State → Except Halt State
  | [], s => .ok s
  | p :: l, s => match s.storePart e p (slice bs p.idx p.len) with
    | .error h => .error h
    | .ok s => State.storeParts e bs l s

/-- A store performed. -/
def State.store (s : State) (e : Nat) (x : Place) (bs : List Byte) : Except Halt State :=
  match x with
  | .scratch o => .ok (s.modEng e fun g => { g with mem := { g.mem with scratch := writeBytes g.mem.scratch o bs } })
  | .parts l => State.storeParts e bs l s

/-- Bytes written at once behind a drained store buffer: string iterations. A poisoned line makes it a store write error, which is
one for all bytes of the line (R529). -/
def State.putPart (s : State) (e : Nat) (p : Part) (bs : List Byte) : Except Halt State :=
  match bit p.leaf 9, (s.eng e).att with
  | true, some a => s.ledgerStore e a p bs
  | _, _ =>
    let s := s.sbDrain e
    if s.mem.poison.contains (p.pa / 64) then
      if (s.eng e).amc.any fun a => decide (a.toNat / 64 = p.va / 64) then .ok s
      else .ok ((s.ueRecord p.pa 0 false).modEng e fun g => { g with amc := some (BitVec.ofNat 48 p.va) })
    else if fld p.leaf 61 60 = 2 then .ok (s.wr p.pa bs)
    else .ok (s.wrBy e p.pa bs)

/-- The parts of such a write in order. -/
def State.putParts (e : Nat) (bs : List Byte) : List Part → State → Except Halt State
  | [], s => .ok s
  | p :: l, s => match s.putPart e p (slice bs p.idx p.len) with
    | .error h => .error h
    | .ok s => State.putParts e bs l s

/-- Such a write of a whole access. -/
def State.put (s : State) (e : Nat) (x : Place) (bs : List Byte) : Except Halt State :=
  match x with
  | .scratch o => .ok (s.modEng e fun g => { g with mem := { g.mem with scratch := writeBytes g.mem.scratch o bs } })
  | .parts l => State.putParts e bs l s

/-- A store-buffer entry made; in a full buffer the oldest is written first (R354). -/
def State.pushStore (s : State) (e : Nat) (x : SbEntry) : State :=
  (if 16 ≤ (s.eng e).mem.sbuf.length then s.sbWrite e else s).modEng e fun g =>
    { g with mem := { g.mem with sbuf := g.mem.sbuf ++ [x] } }

/-- The store-buffer entries of a part of a TSB: at most 12 bytes each (R354). -/
def Part.entries (p : Part) (bs : List Byte) : List SbEntry :=
  (List.range ((p.len + 11) / 12)).map fun i =>
    ⟨BitVec.ofNat 48 (p.va + 12 * i), p.pa + 12 * i, slice bs (p.idx + 12 * i) (min 12 (p.len - 12 * i)),
     decide (fld p.leaf 61 60 = 2)⟩

/-- A TSB written by stores, lowest address first (R380 step 4): they go through the store buffer behind the earlier ones
and order nothing more (R351, R354). -/
def State.putTsb (s : State) (e : Nat) (x : Place) (bs : List Byte) : State :=
  match x with
  | .scratch o => s.modEng e fun g => { g with mem := { g.mem with scratch := writeBytes g.mem.scratch o bs } }
  | .parts l => l.foldl (fun s p => (p.entries bs).foldl (fun s x => s.pushStore e x) s) s

/-- What the parts of a split load that waits read as it issues (R360); a part that waits for the store buffer reads after it
(R355). -/
def State.earlyOf (s : State) (e : Nat) (x : Place) : List (Nat × List Byte) :=
  match x with
  | .parts (p :: q :: l) => (p :: q :: l).filterMap fun p =>
    if bit p.leaf 9 || fld p.leaf 61 60 = 2 || s.sbPartial e p then none else some (p.pa, s.ownBytes e p.pa p.len)
  | _ => []

/-- Whether an access can miss L1 and which of its parts wait for the store buffer (R355). Scratch accesses and ledger
loads served from the whey buffer never wait. -/
def State.waits (s : State) (e : Nat) (v : Env) (x : Place) : Bool :=
  match x with
  | .scratch _ => false
  | .parts l => v.miss || l.any fun p => !bit p.leaf 9 && !decide (fld p.leaf 61 60 = 2) && s.sbPartial e p

end Sys2Proof.Machine
end

