-- ==== Sys2Proof/Machine/Journal.lean ====
section
/-! DEFINITION. The Phomberak journal: records, room, and what waits for it (R465, R501 to R504, R635). -/

namespace Sys2Proof.Machine

/-- The journal MAC key for records of a turn (R468, R501): the latest roll whose effective turn has come, or KJ. -/
def State.jrnKey (s : State) (turn : Nat) : List Byte :=
  (s.via.jrn.keys.foldl (fun acc k => if k.1 ≤ turn then k.2 else acc) s.via.vault.kj)

/-- A record (R501). -/
def State.jrnRec (s : State) (type turn : Nat) (body : List Byte) : List Byte :=
  let body := padTo 16 body
  let r := toBytes 2 type ++ toBytes 2 (32 + body.length) ++ toBytes 6 turn ++ List.replicate 6 0 ++ body
  r ++ (hmac256 (s.jrnKey turn) r).take 16

/-- Room in the ring. -/
def Journal.room (j : Journal) : Nat := if j.set then j.size - (j.made - j.used) else 0

/-- Whether less than one eighth of the ring is free (R465, R491). With no journal configured nothing is free. -/
def Journal.low (j : Journal) : Bool := decide (8 * j.room < j.size) || !j.set

/-- Bytes put at the end of the ring: into DDR5, or by DMA of function 0 into the host's ring (R465, log 31), which
a reset of that function stops (R441, R627). -/
def State.jrnWrite (s : State) (r : List Byte) : State :=
  let j := s.via.jrn
  let at_ := j.made % max 1 j.size
  let first := r.take (j.size - at_)
  let rest := r.drop (j.size - at_)
  let put (s : State) (off : Nat) (l : List Byte) : State :=
    if l.isEmpty then s
    else if j.ddr then s.wr (j.base + off) l
    else if s.dmaOn 0 then s.emit (.dma 0 (j.base + off) l) else s
  let s := put (put s at_ first) 0 rest
  s.modVia fun v => { v with jrn := { v.jrn with
    made := v.jrn.made + r.length
    bytes := (r.foldl (fun (p : Nat × AMap Byte) b => ((p.1 + 1) % max 1 j.size, p.2.put p.1 b)) (at_, v.jrn.bytes)).2 } }

/-- A record appended, or held behind earlier ones until there is room (R635). tag: slot + 1 of the command that waits
for it, relTag for a RELEASE, else 0. -/
def State.jrnAppend (s : State) (tag : Nat) (r : List Byte) : State :=
  let j := s.via.jrn
  if j.held.isEmpty && decide (r.length ≤ j.room) then s.jrnWrite r
  else s.modVia fun v => { v with jrn := { v.jrn with held := v.jrn.held ++ [(tag, r)] } }

/-- Held records appended as far as there is room (R635). -/
def State.jrnFill : Nat → State → State
  | 0, s => s
  | n + 1, s =>
    match s.via.jrn.held with
    | [] => s
    | (_, r) :: rest =>
      if r.length ≤ s.via.jrn.room then
        State.jrnFill n ((s.modVia fun v => { v with jrn := { v.jrn with held := rest } }).jrnWrite r)
      else s

/-- Held records appended as far as there is room (R635); a release that waited for one counts from now (R101). -/
def State.jrnFlush (n : Nat) (s : State) : State := State.waitEnded s (State.jrnFill n s)

/-- A FRAME record appended; one of a turn whose predecessor's membership is not final waits for the frames of that turn
which may still be decided (R503). -/
def State.jrnFrame (s : State) (turn : Nat) (r : List Byte) : State :=
  if s.prs.batches.any fun b => decide (b.1 < turn) && !b.2.final then
    s.modVia fun v => { v with jrn := { v.jrn with next := v.jrn.next ++ [r] } }
  else s.jrnAppend 0 r

/-- The FRAME records that waited for the membership of the turn before them (R503). -/
def State.jrnNext (s : State) : State :=
  s.via.jrn.next.foldl (fun s r => s.jrnAppend 0 r) (s.modVia fun v => { v with jrn := { v.jrn with next := [] } })

/-- Whether a record of a command's slot still waits (R635). -/
def State.recordWaits (s : State) (k : Nat) : Bool := s.via.jrn.held.any fun r => r.1 = k + 1

/-- A START record (R502). -/
def State.startRecord (s : State) (tag first : Nat) : State :=
  let ver := (s.setFor first).elim 0 CfgSet.ver
  s.jrnAppend tag (s.jrnRec 0x0006 first (toBytes 6 first ++ toBytes 4 ver ++ List.replicate 6 0 ++ s.prs.chain))

/-- The lines of a batch as the release hash holds them (R504). -/
def State.hashLines (s : State) (b : Batch) : List Byte :=
  ((linesOf b.staged).map fun l => toBytes 8 (l * 64) ++
    (List.range 64).map fun i => (getByte b.staged (l * 64 + i)).getD (s.relByte (l * 64 + i))).flatten

/-- The postings of a batch as the release hash holds them (R504). -/
def hashPosts (b : Batch) : List Byte :=
  (b.done.map fun d => keyBytes d.key ++ [BitVec.ofNat 8 d.outcome] ++ toBytes 2 d.result.length ++ d.result).flatten

/-- H(N) (R504), before the batch is released. -/
def State.relHash (s : State) (n : Nat) (b : Batch) : List Byte :=
  sha384 (s.prs.chain ++ toBytes 6 n ++ toBytes 4 (linesOf b.staged).length ++ s.hashLines b ++
    toBytes 4 b.done.length ++ hashPosts b)

/-- The turn-source state of a RELEASE record (R60). -/
def State.sourceState (s : State) : Byte := if bit s.trn.status 3 then 2 else if bit s.trn.status 2 then 1 else 0

/-- The body of a RELEASE record (R502). -/
def State.relBody (s : State) (n : Nat) (b : Batch) (slipped : Bool) (h : List Byte) : List Byte :=
  toBytes 6 n ++ [s.sourceState, if slipped then 1 else 0] ++ toBytes 2 s.trn.tick ++ toBytes 4 b.done.length ++
    toBytes 4 (linesOf b.staged).length ++ toBytes 4 ((s.setFor n).elim 0 CfgSet.ver) ++ List.replicate 10 0 ++ h

end Sys2Proof.Machine
end

