-- ==== Sys2Proof/Machine/Window.lean ====
section
/-! DEFINITION. Vat Control Space: field types (R9, R10), engine sub-windows (R412, R509 to R511), TLB maintenance (R328
to R333), and the unicast, group and broadcast windows (R506 to R518). -/

namespace Sys2Proof.Machine

/-! ### Field types (R9, R10) -/

/-- The writable, write-one-to-clear and reserved bits of a register. -/
structure Layout where
  rw : W64 := 0
  w1c : W64 := 0
  rsv : W64 := 0
  deriving DecidableEq, Repr

/-- The bits of a list of ranges high, low. -/
def bitsOf (l : List (Nat × Nat)) : W64 := l.foldl (fun m r => m ||| maskOf r.1 r.2) 0

/-- A layout from its ranges. -/
def layout (rw w1c rsv : List (Nat × Nat)) : Layout := ⟨bitsOf rw, bitsOf w1c, bitsOf rsv⟩

/-- A register after a write (R9): RW fields take the value, each 1 clears a W1C bit, all else stays. -/
def Layout.write (l : Layout) (old w : W64) : W64 := (old &&& ~~~l.rw &&& ~~~(w &&& l.w1c)) ||| (w &&& l.rw)

/-- Whether a write puts a 1 into a reserved bit (R10). -/
def Layout.hit (l : Layout) (w : W64) : Bool := decide (w &&& l.rsv ≠ 0)

/-! ### Engine sub-windows (R509 to R511, R412) -/

/-- ENG_STAT.STATE (R510). -/
def EngMode.code : EngMode → Nat
  | .running => 0
  | .held => 1
  | .stopped => 2
  | .slice => 3
  | .mapped => 4

/-- Whether SRAM_DATA may be accessed: STATE 1 or 2 (R511). -/
def Eng.inHold (g : Eng) : Bool := decide (g.mode = .held) || decide (g.mode = .stopped)

/-- Whether an engine is held in engine reset, as RN_PMATCHn, RN_PADDR and RN_PDATAn ask (R412): every STATE but 0, for an
engine in slice test (R585) and one mapped out (R592) are held too. -/
def Eng.inReset (g : Eng) : Bool := decide (g.mode ≠ .running)

/-- RN_STAT (R412): BUSY while an operation of Rennet runs. -/
def Eng.rnStat (g : Eng) : W64 := setBit g.rn.stat 0 (g.str.isSome || g.df.isSome)

/-- An engine sub-window register as it reads (R509, R510, R412). -/
def State.engRead (s : State) (e off : Nat) : W64 :=
  let g := s.eng e
  let word := (g.rn.patch.get g.rn.paddr 0).toNat
  if off = 0x000 then (if g.hold then 1 else 0)
  else if off = 0x008 then BitVec.ofNat 64 (g.mode.code + if g.rsvwr then 128 else 0)
  else if off = 0x018 then BitVec.ofNat 64 (256 * vatOf e + slotOf e)
  else if 0x040 ≤ off && off ≤ 0x078 then s.feat (vatOf e) ((off - 0x40) / 8)
  else if 0x100 ≤ off && off ≤ 0x1F8 then g.rn.pmatch.get ((off - 0x100) / 8) 0
  else if off = 0x200 then BitVec.ofNat 64 g.rn.paddr
  else if off = 0x208 then BitVec.ofNat 64 (word / 2 ^ 128)
  else if off = 0x210 then BitVec.ofNat 64 (word / 2 ^ 64)
  else if off = 0x218 then BitVec.ofNat 64 word
  else if off = 0x220 then g.rnStat
  else if off = 0x300 then BitVec.ofNat 64 (g.sramAddr * 8)
  else if off = 0x308 && g.inHold then BitVec.ofNat 64 (ofBytes (readBytes g.mem.sram (8 * g.sramAddr) 8))
  else 0

/-- The engine after an access of SRAM_DATA (R510, R511): a write, or none for a read. -/
def Eng.sramData (g : Eng) (w : Option W64) : Eng :=
  if !g.inHold then { g with rsvwr := true }
  else
    let g := match w with
      | some w => { g with mem := { g.mem with sram := writeBytes g.mem.sram (8 * g.sramAddr) (toBytes 8 w.toNat) } }
      | none => g
    { g with sramAddr := (g.sramAddr + 1) % 2048 }

/-- All 2,048 words written through SRAM_ADDR and SRAM_DATA from word 0 on (R510, R511), after which WORD is 0 again. -/
def Eng.sramFill (g : Eng) (b : Bytes) : Eng :=
  if g.inHold then { g with mem := { g.mem with sram := b }, sramAddr := 0 } else { g with rsvwr := true, sramAddr := 0 }

/-- The patch registers after a write that is permitted now (R412). -/
def Rennet.write (r : Rennet) (off : Nat) (w : W64) : Rennet :=
  if 0x100 ≤ off && off ≤ 0x1F8 then
    let l := layout [(31, 31), (24, 16), (11, 0)] [] [(63, 32), (30, 25), (15, 12)]
    { r with pmatch := r.pmatch.put ((off - 0x100) / 8) (l.write 0 w), stat := if l.hit w then setBit r.stat 1 true else r.stat }
  else if off = 0x200 then
    { r with paddr := fld w 8 0, stat := if w.toNat < 512 then r.stat else setBit r.stat 1 true }
  else if off = 0x208 then
    { r with pdata0 := BitVec.ofNat 64 (fld w 23 0), stat := if w.toNat < 2 ^ 24 then r.stat else setBit r.stat 1 true }
  else if off = 0x210 then { r with pdata1 := w }
  else
    { r with
      paddr := (r.paddr + 1) % 512
      patch := r.patch.put r.paddr (BitVec.ofNat 152 (r.pdata0.toNat * 2 ^ 128 + r.pdata1.toNat * 2 ^ 64 + w.toNat)) }

/-- A write of an engine sub-window register by a writer that may make it (R509, R510). A 1 in a reserved bit of an RN_*
register sets RN_STAT.RSVWR (R412) and not ENG_STAT.RSVWR beside it (log 40). -/
def State.engWrite (s : State) (e off : Nat) (w : W64) : State :=
  let g := s.eng e
  let flag (g : Eng) (l : Layout) : Eng := if l.hit w then { g with rsvwr := true } else g
  if off = 0x000 then s.setEng e (flag { g with hold := bit w 0 } (layout [] [] [(63, 1)]))
  else if off = 0x008 then
    s.setEng e (flag { g with rsvwr := g.rsvwr && !bit w 7 } (layout [] [] [(63, 8), (6, 3)]))
  else if off = 0x010 then
    s.setEng e (flag (if bit w 0 then { g with cr := { g.cr with vs := true } } else g) (layout [] [] [(63, 1)]))
  else if off = 0x220 then
    let l := layout [] [(1, 1)] [(63, 51), (17, 2)]
    let st := l.write g.rn.stat w
    s.setEng e { g with rn := { g.rn with stat := if l.hit w then setBit st 1 true else st } }
  else if (0x100 ≤ off && off ≤ 0x1F8) || (0x200 ≤ off && off ≤ 0x218) then
    if s.dev.mode = 1 || g.inReset then s.setEng e { g with rn := g.rn.write off w }
    else s.setEng e { g with rn := { g.rn with stat := setBit g.rn.stat 1 true } }
  else if off = 0x300 then
    s.setEng e (flag { g with sramAddr := fld w 13 3 } (layout [] [] [(63, 14), (2, 0)]))
  else if off = 0x308 then s.setEng e (g.sramData (some w))
  else s

/-! ### TLB maintenance (R328 to R333) -/

/-- Whether an entry is named by a request (R330): TLBI_ARG and TLBI_CMD. -/
def tlbNamed (arg cmd : W64) (t : Tlb) : Bool :=
  let a := fld arg 47 12
  let global := bit t.leaf 6
  let free := !global || bit cmd 5
  match fld cmd 2 0 with
  | 1 =>
    let span := 12 + 9 * fld cmd 7 6
    free && t.overlaps span (a * 4096 / 2 ^ span)
  | 2 => !global && decide (t.root = a)
  | 3 => free && decide (t.pa / 2 ^ t.size = a * 4096 / 2 ^ t.size)
  | 4 => free
  | _ => false

/-- A request accepted: TOKEN and BUSY (R329, R330). -/
def State.tlbiAccept (s : State) (v : Nat) (arg cmd : W64) : State :=
  s.modVat v fun x =>
    { x with tlbiReq := some (arg, cmd), tlbiStat := setBit (setFld x.tlbiStat 63 48 (fld cmd 63 48)) 0 true }

/-- A write of TLBI_CMD that a vat takes (R330): a reserved OP is ignored. -/
def State.tlbiWrite (s : State) (v : Nat) (w : W64) : State :=
  let x := s.vat v
  let s := if (layout [] [] [(47, 8), (4, 3)]).hit w then
      s.modVat v fun x => { x with tlbiStat := setBit x.tlbiStat 1 true } else s
  if fld w 2 0 = 0 || 4 < fld w 2 0 then s.modVat v fun x => { x with tlbiStat := setBit x.tlbiStat 1 true }
  else s.tlbiAccept v x.tlbiArg w

/-! ### Vat windows (R508 to R510) -/

/-- Slots of a vat that are good (R508). -/
def State.goodSlots (s : State) (v : Nat) : List Nat := (List.range 18).filter fun k => (s.vat v).gmask.getLsbD k

/-- A register of a vat outside the engine sub-windows as it reads. -/
def State.vatRead (s : State) (v off : Nat) : W64 :=
  let x := s.vat v
  if off = 0x9800 then BitVec.ofNat 64 (v * 2 ^ 26 + x.live * 2 ^ 21 + if x.rsvwr then 1 else 0)
  else if off = 0x9810 then x.tlbiArg
  else if off = 0x9820 then x.tlbiStat
  else if 0xA000 ≤ off && off ≤ 0xA038 then x.cnt.get ((off - 0xA000) / 8) 0
  else if off = 0xB000 then x.vfStat
  else if off = 0xB008 then x.pwrCtl
  else if off = 0xB010 then x.pwrBound
  else if off = 0xB018 then x.pinned
  else if off = 0xC000 then x.stStat
  else if off = 0xC008 then x.stCount
  else if off = 0xC010 then
    let w := if v % 8 = 7 then setFld (setFld x.stLink 63 48 0) 31 28 0 else x.stLink
    if v / 8 = 7 then setFld (setFld w 47 32 0) 27 24 0 else w
  else 0

/-- PWR_CTL (R556). -/
def lPwrCtl : Layout := layout [(63, 36), (3, 1)] [] [(35, 4), (0, 0)]
/-- PWR_BOUND (R556). -/
def lPwrBound : Layout := layout [(63, 16)] [] [(15, 0)]

/-- VF_STAT (R557): its reserved bits. -/
def lVfStat : Layout := layout [] [] [(7, 5), (1, 0)]

/-- A write of a register of a vat outside the engine sub-windows, by a writer that may make it. R508 names no writer of
VAT_STAT, and R510 types its RSVWR W1C: Viari's write is taken (log 40). -/
def State.vatWrite (s : State) (v off : Nat) (w : W64) : State :=
  let put (l : Layout) (f : Vat → Vat) : State := s.modVat v fun x =>
    let x := f x
    if l.hit w then { x with rsvwr := true } else x
  if off = 0x9800 then put (layout [] [] [(63, 32), (20, 1)]) fun x => { x with rsvwr := x.rsvwr && !bit w 0 }
  else if off = 0x9810 then
    s.modVat v fun x =>
      { x with
        tlbiArg := (layout [(47, 12)] [] []).write x.tlbiArg w
        tlbiStat := if (layout [] [] [(63, 48), (11, 0)]).hit w then setBit x.tlbiStat 1 true else x.tlbiStat }
  else if off = 0x9818 then s.tlbiWrite v w
  else if off = 0x9820 then
    s.modVat v fun x =>
      let st := (layout [] [(1, 1)] []).write x.tlbiStat w
      { x with tlbiStat := if (layout [] [] [(47, 2)]).hit w then setBit st 1 true else st }
  else if off = 0xB000 then put lVfStat id
  else if off = 0xB008 then put lPwrCtl fun x => { x with pwrCtl := lPwrCtl.write x.pwrCtl w }
  else if off = 0xB010 then put lPwrBound fun x => { x with pwrBound := lPwrBound.write x.pwrBound w }
  else if off = 0xB018 then s.modVat v fun x => { x with pinned := w }
  else if off = 0xC000 then
    s.modVat v fun x =>
      let st := (layout [] [(0, 0)] []).write x.stStat w
      { x with stStat := if (layout [] [] [(12, 1)]).hit w then setBit st 0 true else st }
  else if off = 0xC010 then
    s.modVat v fun x => { x with stStat := if (layout [] [] [(23, 0)]).hit w then setBit x.stStat 0 true else x.stStat }
  else s

/-! ### Windows (R506, R507, R512 to R515) -/

/-- The number of a window: vat v, 64 + group, or 80. -/
def winNo : Window → Nat
  | .unicast v => v.val
  | .group g => 64 + g.val
  | .broadcast => 80

/-- A window's registers. -/
def State.win (s : State) (n : Nat) : VcsWin := s.vcs.get n {}

/-- The state with a window's registers changed. -/
def State.modWin (s : State) (n : Nat) (f : VcsWin → VcsWin) : State := { s with vcs := s.vcs.put n (f (s.win n)) }

/-- The vats of a window, and those of them not in vat reset (R506, R514). -/
def State.members (s : State) (n : Nat) : List Nat × List Nat :=
  let all := if n < 64 then [n] else if n = 80 then allVats else allVats.filter fun v => bit (s.win n).mask v
  (all, all.filter fun v => !(s.vat v).inReset)

/-- A write taken at a vat, by its offset in a window: an engine sub-window, the engine broadcast sub-window, or the vat's
own registers (R508). -/
def State.memberPut (s : State) (v off : Nat) (w : W64) : State :=
  if off < 0x9000 then s.engWrite (18 * v + off / 0x800) (off % 0x800) w
  else if off < 0x9800 then (s.goodSlots v).foldl (fun s k => s.engWrite (18 * v + k) (off - 0x9000) w) s
  else if off = 0x9818 then s.tlbiWrite v w
  else s.vatWrite v off w

/-- Whether a vat does not acknowledge a write yet: one of the same requester waits before it (R515), or it is a TLBI_CMD
while BUSY is 1 (R330). -/
def State.holdsWrite (s : State) (who : Who) (v off : Nat) (w : W64) : Bool :=
  (s.vat v).held.any (fun h => h.1 = who) ||
    (off = 0x9818 && bit (s.vat v).tlbiStat 0 && decide (1 ≤ fld w 2 0) && decide (fld w 2 0 ≤ 4))

/-- A write of a requester arrives at a member vat: taken, or held until it may be (R512). tag: slot + 1 of the VCS_WRITE that
makes it, else 0. -/
def State.memberWrite (s : State) (who : Who) (v off : Nat) (w : W64) (tag : Nat := 0) : State :=
  if s.holdsWrite who v off w then s.modVat v fun x => { x with held := x.held ++ [(who, off, w, tag)] }
  else s.memberPut v off w

/-- Whether a write of a requester is not acknowledged by every member yet (R512, R515). -/
def State.vcsBusy (s : State) (who : Who) : Bool := allVats.any fun v => (s.vat v).held.any fun h => h.1 = who

/-- Whether a member still holds the write that a VCS_WRITE made (R512). -/
def State.tagHeld (s : State) (tag : Nat) : Bool := allVats.any fun v => (s.vat v).held.any fun h => h.2.2.2 = tag

/-- A vat completes its request (R331): accesses of its engines are performed, the named entries leave every TLB, BUSY
clears, and the writes that waited are taken in order, up to the next that must wait (R330, R515). -/
def State.tlbiDone (s : State) (v : Nat) : State :=
  match (s.vat v).tlbiReq with
  | none => s
  | some (arg, cmd) =>
    let s := (List.range 18).foldl (fun s k => s.sbDrain (18 * v + k)) s
    let s := s.tlbDrop v (tlbNamed arg cmd)
    let s := s.modVat v fun x => { x with tlbiReq := none, tlbiStat := setBit x.tlbiStat 0 false }
    let held := (s.vat v).held
    held.foldl (fun s h => s.memberWrite h.1 v h.2.1 h.2.2.1 h.2.2.2) (s.modVat v fun x => { x with held := [] })

/-- A vat completes every request that it has accepted or that waits at it. -/
def State.tlbiWait (s : State) (v : Nat) : State :=
  (List.range ((s.vat v).held.length + 1)).foldl (fun s _ => s.tlbiDone v) s

/-- Whether an offset lies in an engine sub-window, or in the engine broadcast sub-window. -/
def isEngOff (off : Nat) : Bool := decide (off < 0x9800)

/-- The engines an offset of a window reaches (R506, R508), with the offset in their sub-windows. -/
def State.targets (s : State) (vats : List Nat) (off : Nat) : List Nat × Nat :=
  if off < 0x9000 then (vats.map fun v => 18 * v + off / 0x800, off % 0x800)
  else ((vats.map fun v => (s.goodSlots v).map fun k => 18 * v + k).flatten, off - 0x9000)

/-- Whether the host may write an offset of a window (R508, R509). -/
def hostMay (n off : Nat) : Bool :=
  let o := if off < 0x9000 then off % 0x800 else off - 0x9000
  (isEngOff off && (o = 0x008 || o = 0x010 || o = 0x220)) ||
    off = 0x9810 || off = 0x9818 || off = 0x9820 || (off = 0xF000 && 72 ≤ n && n < 80) || off = 0xF008 ||
    (off = 0xF010 && 64 ≤ n)

/-- FN_STAT.WRDENY of the PF (R420, R508). -/
def State.denied (s : State) : State := s.modFn 0 fun x => { x with stat := setBit x.stat 3 true }

/-- A write of a window's own registers (R507, R510). -/
def State.winWrite (s : State) (who : Who) (n off : Nat) (w : W64) : State :=
  let flag (s : State) : State :=
    if n < 64 then s.modVat n fun x => { x with rsvwr := true }
    else s.modWin n fun x => { x with stat := setBit x.stat 0 true }
  if off = 0xF000 then (if 64 ≤ n && n < 80 then s.modWin n fun x => { x with mask := w } else s)
  else if off = 0xF008 then
    let s := if w.toNat < 8 then s else flag s
    if 4 < fld w 2 0 then flag s
    else s.modWin n fun x => match who with
      | .viari => { x with rdCp := fld w 2 0 }
      | .host => { x with rdHost := fld w 2 0 }
  else if off = 0xF010 && decide (64 ≤ n) then
    s.modWin n fun x =>
      let st := (layout [] [(2, 0)] []).write x.stat w
      { x with stat := if w.toNat < 8 then st else setBit st 0 true }
  else s

/-- A write through a window (R508, R512, R514): every member takes it, or holds it (tag as there). Unaligned and unassigned offsets take
nothing. -/
def State.vcsWrite (s : State) (who : Who) (n off : Nat) (w : W64) (tag : Nat := 0) : State :=
  if who = .host && !hostMay n off then s.denied
  else if off % 8 ≠ 0 then s
  else
    let (all, live) := s.members n
    if n < 64 && live.isEmpty then s
    else if 0xF000 ≤ off then s.winWrite who n off w
    else
      let s := if 64 ≤ n && live.length < all.length then s.modWin n fun x => { x with stat := setBit x.stat 1 true } else s
      let none_ := if isEngOff off then (s.targets live off).1.isEmpty else live.isEmpty
      if none_ then (if 64 ≤ n then s.modWin n fun x => { x with stat := setBit x.stat 2 true } else s)
      else live.foldl (fun s v => s.memberWrite who v off w tag) s

/-- A reduction of member values (R513). -/
def reduce (mode : Nat) (l : List W64) : W64 :=
  match l with
  | [] => 0
  | a :: _ => match mode with
    | 0 => a
    | 1 => l.foldl (· ||| ·) 0
    | 2 => l.foldl (· &&& ·) 0xFFFFFFFFFFFFFFFF
    | 3 => BitVec.ofNat 64 (min (2 ^ 64 - 1) (l.map BitVec.toNat).sum)
    | _ => l.foldl (fun m x => if m.toNat < x.toNat then x else m) 0

/-- A window's own register as it reads (R510). -/
def State.winRead (s : State) (who : Who) (n off : Nat) : W64 :=
  let x := s.win n
  if off = 0xF000 then (if n = 80 then 0xFFFFFFFFFFFFFFFF else if 64 ≤ n then x.mask else 0)
  else if off = 0xF008 then BitVec.ofNat 64 (match who with | .viari => x.rdCp | .host => x.rdHost)
  else if off = 0xF010 && 64 ≤ n then x.stat
  else 0

/-- A read through a window (R513, R514): a given reduction, or the requester's own. -/
def State.vcsRead (s : State) (who : Who) (n off : Nat) (mode : Option Nat) : State × W64 :=
  let mode := mode.getD (match who with | .viari => (s.win n).rdCp | .host => (s.win n).rdHost)
  let (all, live) := s.members n
  if off % 8 ≠ 0 || (n < 64 && live.isEmpty) then (s, 0)
  else if 0xF000 ≤ off then (s, s.winRead who n off)
  else
    let s := if 64 ≤ n && live.length < all.length then s.modWin n fun x => { x with stat := setBit x.stat 1 true } else s
    let mark (s : State) : State := if 64 ≤ n then s.modWin n fun x => { x with stat := setBit x.stat 2 true } else s
    if isEngOff off then
      let (engs, o) := s.targets live off
      let v := reduce mode (engs.map fun e => s.engRead e o)
      let s := if engs.isEmpty then mark s else s
      (if o = 0x308 then engs.foldl (fun s e => s.modEng e fun g => g.sramData none) s else s, v)
    else (if live.isEmpty then mark s else s, reduce mode (live.map fun v => s.vatRead v off))

/-! ### Maintenance by Viari (R328, R332, R517) -/

/-- Maintenance that Viari issues to every vat by broadcast writes of TLBI_ARG and TLBI_CMD, and its TOKEN, which is open
(log 4). A vat in reset takes no part (R514). -/
def State.tlbiIssue (s : State) (arg cmd : W64) : State × Nat :=
  let token := Config.freeNat s.fresh % 2 ^ 16
  (((s.vcsWrite .viari 80 0x9810 arg).vcsWrite .viari 80 0x9818 (setFld cmd 63 48 token)).draw, token)

end Sys2Proof.Machine
end

