-- ==== Sys2Proof/Machine/Rennet.lean ====
section
/-! DEFINITION. Rennet, the microcode sequencer (R404 to R417): microwords and their parity, the word that an address reads,
the next microaddress, the words of an iteration, and loading patch RAM. -/

namespace Sys2Proof.Machine

/-! ### Microwords (R405, R406) -/

/-- The number of ones among the low n bits of a number. -/
def onesIn : Nat → Nat → Nat
  | 0, _ => 0
  | n + 1, v => v % 2 + onesIn n (v / 2)

/-- Whether each of the eight groups of a word holds an odd number of ones with its parity bit (R405). -/
def parityGood (w : Nat) : Bool :=
  (List.range 8).all fun k =>
    decide ((onesIn 18 (w / 2 ^ (18 * k) % 2 ^ 18) + w / 2 ^ (144 + k) % 2) % 2 = 1)

/-- SEQ of a word (R406). -/
def seqOf (w : Nat) : Nat := w / 2 ^ 140 % 16
/-- NADDR of a word. -/
def naddrOf (w : Nat) : Nat := w / 2 ^ 127 % 2 ^ 13
/-- CSEL of a word. -/
def cselOf (w : Nat) : Nat := w / 2 ^ 121 % 64
/-- CPOL of a word. -/
def cpolOf (w : Nat) : Bool := decide (w / 2 ^ 120 % 2 = 1)
/-- MEMOP of a word. -/
def memopOf (w : Nat) : Nat := w / 2 ^ 76 % 16
/-- LIT of a word. -/
def litOf (w : Nat) : Nat := w / 2 ^ 80 % 2 ^ 16
/-- The bytes of a word's access: MSIZE plus 1. -/
def msizeOf (w : Nat) : Nat := w / 2 ^ 72 % 16 + 1
/-- STATE of a word: for IP, SIG, NEG, ZRO, LFL and the internal flag in this order a set and a clear bit, highest first
(DEDUCED, log 19). -/
def stateOf (w : Nat) : Nat := w / 2 ^ 56 % 2 ^ 12
/-- The bits of STATE that set (k 1) or clear (k 0) IP to LFL, as a number of five bits. -/
def stateBits (w k : Nat) : Nat := (List.range 5).foldl (fun n j => 2 * n + stateOf w / 2 ^ (10 - 2 * j + k) % 2) 0
/-- The AFLAG bits that FLAGS of a word sets: XDIV, XOVF and XDATA, and the five float flags, highest first (DEDUCED,
log 19). -/
def flagsOf (w : Nat) : Nat := w / 2 ^ 53 % 8 * 256 + w / 2 ^ 48 % 32
/-- RESULT of a word. -/
def resultOf (w : Nat) : Nat := w / 2 ^ 40 % 2 ^ 8
/-- IB of a word. -/
def ibOf (w : Nat) : Bool := decide (w / 2 ^ 39 % 2 = 1)
/-- WG of a word. -/
def wgOf (w : Nat) : Bool := decide (w / 2 ^ 38 % 2 = 1)

/-- The parity bits that control bits need (R405). -/
def parityOf (c : Nat) : Nat :=
  (List.range 8).foldl (fun p k => p + (1 - onesIn 18 (c / 2 ^ (18 * k) % 2 ^ 18) % 2) * 2 ^ k) 0

/-- A word of the mask ROM as shipped: good parity (R405), no reserved SEQ (R411), reserved bits and TEST 0 (R406). -/
def romWord (a : Nat) : Nat :=
  let c := (Config.romBits a).toNat
  let c := c / 2 ^ 38 % 2 ^ 105 * 2 ^ 38 + c / 2 ^ 16 % 2 ^ 16 * 2 ^ 16
  c + parityOf c * 2 ^ 144

/-- The entry microaddress of a trigger (R404); resume: its resume entry. -/
def rnEntry (p op : Nat) (resume : Bool) : Nat :=
  let i := if p = 0x330 then 0 else if 0x310 ≤ p && p ≤ 0x314 then p - 0x30F
    else if 0x2D0 ≤ p && p ≤ 0x2D6 then p - 0x2CA else 13 + op % 2
  16 * i + if resume then 8 else 0

/-- The word that an address reads and the microaddress it comes from (R410): mask ROM, the patch word of the
lowest-numbered match register in force for the address, or patch RAM. -/
def Rennet.word (r : Rennet) (a : Nat) : Nat × Nat :=
  if a < 0x1000 then
    match (List.range 32).find? fun i => bit (r.pmatch.get i 0) 31 && decide (fld (r.pmatch.get i 0) 11 0 = a) with
    | some i =>
      let k := fld (r.pmatch.get i 0) 24 16
      (0x1000 + k, (r.patch.get k 0).toNat)
    | none => (a, romWord a)
  else (a, (r.patch.get (a - 0x1000) 0).toNat)

/-- Whether a match register is in force. None being, only the mask ROM is read, which the part is made with good (R411,
log 19). -/
def Rennet.live (r : Rennet) : Bool := r.pmatch.any fun p => bit p.2 31

/-! ### Sequencing (R407 to R411) -/

/-- What reading words leads to: where Rennet stands next, the end of the operation, with the word of patch RAM that holds
END if it lies there, or an error with its SUB and EADDR and the bytes that the words before it wrote. -/
inductive MicroOut where
  | next (m : Micro)
  | done (m : Micro) (patch : Option Nat)
  | fail (sub ea wrote : Nat)
  deriving DecidableEq, Repr

/-- What a word read does beside its sequencing (R406, R408): the write gate, the bytes that MEMOP 6 writes, and for a word
of patch RAM its STATE and FLAGS. What ROM words do to the string state and AFLAG is the operation's meaning. -/
def Micro.act (m : Micro) (a w : Nat) : Micro :=
  let m := { m with
    wg := m.wg || wgOf w, cnt := (Config.microCount (w % 2 ^ 144) (litOf w)).getD m.cnt
    wrote := m.wrote + if memopOf w = 6 then msizeOf w else 0 }
  if a < 0x1000 then m
  else
    let st := stateBits w 1
    let cl := stateBits w 0
    { m with
      setBits := (m.setBits - Nat.land m.setBits cl) ||| st
      clrBits := (m.clrBits - Nat.land m.clrBits st) ||| cl
      flags := m.flags ||| flagsOf w }

/-- One word read: its parity, then its controls and sequencing (R405, R407, R408, R411, R416). f and k number the free
conditions (log 19). WAIT ends when the access responds. LOOP tests the micro-counter alone, as R407 states it. -/
def Rennet.step (r : Rennet) (m0 : Micro) (f k : Nat) : MicroOut :=
  let (a, w) := r.word m0.at_
  let bad : MicroOut := .fail (if a < 0x1000 then 3 else 2) a m0.wrote
  let m := m0.act a w
  let wg := m.wg
  let cnt := m.cnt
  let go (n : Nat) (st : List Nat) (c : Nat) : MicroOut :=
    if 0x1200 ≤ n then .fail 2 a m0.wrote else .next { m with at_ := n, stack := st, cnt := c }
  if !parityGood w || (memopOf w = 6 && !wg) then bad
  else match seqOf w with
    | 0 => go (a + 1) m.stack cnt
    | 1 => go (naddrOf w) m.stack cnt
    | 2 => go (if Config.microCond f k (cselOf w) != cpolOf w then naddrOf w else a + 1) m.stack cnt
    | 3 => go (naddrOf w) (((a + 1) :: m.stack).take 4) cnt
    | 4 => match m.stack with
      | [] => bad
      | b :: st => go b st cnt
    | 5 => go (if cnt ≠ 1 then naddrOf w else a + 1) m.stack (cnt - 1)
    | 6 => go (a + 1) m.stack cnt
    | 7 => .done m (if a < 0x1000 then none else some w)
    | _ => bad

/-- The words up to the next iteration boundary, or for an operation with no iterations up to END (R407, R408), at most n of
them (log 19). The write gate closes at every boundary. -/
def Rennet.run (r : Rennet) (ends : Bool) (f : Nat) : Nat → Bool → Micro → MicroOut
  | 0, _, m => .next m
  | n + 1, first, m =>
    let ib := !first && ibOf (r.word m.at_).2
    if ends && ib then .next { m with wg := false }
    else match r.step (if ib then { m with wg := false } else m) f n with
      | .next m => Rennet.run r ends f n false m
      | o => o

/-! ### Loading patch RAM (R412, R415) -/

/-- Patch words and match registers written through RN_PADDR, RN_PDATA0 to RN_PDATA2 and RN_PMATCHn, then every word read
back through RN_PADDR (R415, R417). -/
def Rennet.load (r : Rennet) (words : List (BitVec 152)) (pm : AMap W64) : Rennet :=
  let put (r : Rennet) (w : BitVec 152) : Rennet :=
    ((r.write 0x208 (BitVec.ofNat 64 (w.toNat / 2 ^ 128))).write 0x210 (BitVec.ofNat 64 (w.toNat / 2 ^ 64))).write 0x218
      (BitVec.ofNat 64 w.toNat)
  let r := words.foldl put (r.write 0x200 0)
  let r := pm.foldl (fun r p => r.write (0x100 + 8 * p.1) p.2) r
  (List.range words.length).foldl (fun r i => r.write 0x200 (BitVec.ofNat 64 i)) r

end Sys2Proof.Machine
end

