-- ==== Sys2Proof/Machine/Stack.lean ====
section
/-! DEFINITION. The operand stack of Curd (R210 to R214): its depth and memory slots, spills and fills, and the layout an
entry finds at an iteration boundary. -/

namespace Sys2Proof.Machine

/-- The depth D (R211). -/
def Cr.depth (c : Cr) : Nat := (c.osp.toNat - c.oslo.toNat) / 12

/-- The capacity C (R211). -/
def Cr.capacity (c : Cr) : Nat := (c.oshi.toNat - c.oslo.toNat) / 12

/-- The tally register of an element near the top (R212). -/
def elemReg (i : Nat) : Nat := 16 + i % 16

/-- The elements that leave the registers as the depth rises from d to d2 (R213 step 2). -/
def spillsOf (d d2 : Nat) : List Nat := (List.range ((d2 - 16) - (d - 16))).map (d - 16 + ·)

/-- The elements that come back as the depth falls from d to d2 (R213 step 3). -/
def fillsOf (d d2 : Nat) : List Nat := (List.range ((d - 16) - (d2 - 16))).map (d2 - 16 + ·)

/-- The offset of an element's memory slot (R211). -/
def Cr.slotOff (c : Cr) (i : Nat) : Nat := (c.oslo.toNat + 12 * i) % 2 ^ 32

/-- The slots of elements checked for spills or fills, in order (R214). -/
def State.checkSlots (e : Nat) (ue : List Nat) (acc : Acc) : List Nat → State → Prep (List (Nat × Place))
  | [], s => (s, .ok [])
  | i :: l, s =>
    let c := (s.eng e).cr
    match s.access e ue (s.ctx e) acc c.esw.sb.toNat (c.slotOff i) 12 4 with
    | (s, .error h) => (s, .error h)
    | (s, .ok p) => match State.checkSlots e ue acc l s with
      | (s, .error h) => (s, .error h)
      | (s, .ok r) => (s, .ok ((i, p) :: r))

/-- Spills performed: each element stored from its register as it was (R213 step 2). -/
def State.spill (e : Nat) (t : List Tally) : List (Nat × Place) → State → Except Halt State
  | [], s => .ok s
  | (i, p) :: l, s => match s.store e p (toBytes 12 (t.getD (elemReg i) 0).toNat) with
    | .error h => .error h
    | .ok s => State.spill e t l s

/-- Fills performed: each element loaded into its register (R213 step 3). -/
def State.fillRegs (e : Nat) : List (Nat × Place) → State → Except Halt State
  | [], s => .ok s
  | (i, p) :: l, s => match s.load e p 12 with
    | .error h => .error h
    | .ok (s, b) =>
      State.fillRegs e l (s.modEng e fun g => { g with t := g.t.set (elemReg i) (BitVec.ofNat 96 (ofBytes b)) })

/-- An entry at an iteration boundary of a string-class instruction that has popped its operands finds the stack as R212 lays
it out for the depth after the pop: the elements that the pop brought within sixteen of the top are filled (R213, R229;
log 16). One whose slot cannot be read leaves its register as it is. -/
def State.strFill (s : State) (e : Nat) (ue : List Nat) : State :=
  match (s.eng e).str with
  | none => s
  | some run =>
    if !run.popped then s
    else (fillsOf run.deep (s.eng e).cr.depth).foldl (fun s i =>
      match State.checkSlots e ue .load [i] s with
      | (s, .error _) => s
      | (s, .ok l) => match State.fillRegs e l s with
        | .error _ => s
        | .ok s => s) s

end Sys2Proof.Machine
end

