-- ==== Sys2Proof/Machine/Trap.lean ====
section
/-! DEFINITION. Taking an exception or interrupt as one operation (R374 to R381), Salvage (R397 to R401), the engine
stop (R402, R403, R591, R592, R417), and RETX (R382, R383, R215, R634). -/

namespace Sys2Proof.Machine

/-! ### The TSB (R374 to R377) -/

/-- A DF operand as 16 bytes, high half first. -/
def DfLatch.bytes (x : DfLatch) : List Byte := toBytes 8 x.hi.toNat ++ toBytes 8 x.lo.toNat

/-- What an entry saves beside the engine's registers. -/
structure Entry where
  exc : Exc
  imp : Option Imprecise := none
  dd : Option DdRun := none
  df : Option DfRun := none
  ilen : Nat := 0
  deriving DecidableEq, Repr

/-- CAUSE (R375). -/
def Entry.cause (x : Entry) (hset esc : Bool) : Nat :=
  x.exc.cls * 2 ^ 56 + x.exc.sub * 2 ^ 48 + hset.toNat * 2 ^ 46 + x.imp.isSome.toNat * 2 ^ 45 +
    x.exc.dft.isSome.toNat * 2 ^ 44 + x.dd.isSome.toNat * 2 ^ 43 + x.df.isSome.toNat * 2 ^ 42 + esc.toNat * 2 ^ 41 +
    x.ilen * 2 ^ 32

/-- The imprecise record (R377). -/
def Imprecise.bytes (i : Imprecise) : List Byte :=
  toBytes 2 i.trig.toNat ++ [BitVec.ofNat 8 i.kind, BitVec.ofNat 8 (min i.more 255)] ++ toBytes 2 i.dest.toNat ++
    [0, 0] ++ toBytes 8 i.org.toNat

/-- The record of an abandoned DD divide (R377). -/
def DdRun.bytes (d : DdRun) : List Byte :=
  toBytes 4 (d.opmod.toNat + d.drnd.toNat * 2 ^ 16) ++ toBytes 12 d.o.toNat ++ toBytes 12 d.t.toNat ++ [0, 0, 0, 0]

/-- The record of an abandoned DF div (R377). -/
def DfRun.bytes (d : DfRun) : List Byte :=
  toBytes 4 (d.opmod.toNat + d.t.pair.toNat * 2 ^ 16 + d.o.pair.toNat * 2 ^ 17 + d.dfrnd.toNat * 2 ^ 20) ++
    [0, 0, 0, 0] ++ d.o.bytes ++ d.t.bytes

/-- The escalation record (R377). -/
def escr (step cls addr : Nat) : List Byte :=
  [BitVec.ofNat 8 step, BitVec.ofNat 8 cls, 0, 0, 0, 0, 0, 0] ++ toBytes 8 addr

/-- The 512 bytes an entry writes (R374); esc: the escalation record of a Salvage TSB. -/
def State.tsbImage (s : State) (e : Nat) (x : Entry) (esc : Option (List Byte)) : List Byte :=
  let g := s.eng e
  let c := g.cr
  let i := toBytes 8 (s.esw e).bits.toNat ++ toBytes 8 g.pc.toNat ++
    toBytes 8 (if c.esw.bp then g.bt.toNat else 0) ++
    toBytes 8 (x.cause g.hset esc.isSome) ++ toBytes 8 x.exc.faddr ++ toBytes 8 x.exc.finfo ++
    toBytes 4 c.sp.toNat ++ toBytes 4 c.osp.toNat ++ List.replicate 8 0 ++
    toBytes 4 c.ls.toNat ++ toBytes 4 c.le.toNat ++ toBytes 4 c.lc.toNat ++ toBytes 4 c.scnt.toNat ++
    toBytes 8 c.ssrc.toNat ++ toBytes 8 c.sdst.toNat ++ toBytes 8 c.saux.toNat ++
    toBytes 2 (g.p.toNat / 2 * 2 + 1) ++ List.replicate 6 0 ++
    (g.b.map fun b => toBytes 2 b.toNat).flatten ++ ((g.t.drop 16).map fun t => toBytes 12 t.toNat).flatten
  let i := putAt i 0x140 ((x.imp.map Imprecise.bytes).getD (List.replicate 16 0))
  let i := putAt i 0x150 (slice (x.exc.dft.getD []) 0 72)
  let i := putAt i 0x198 (slice ((x.dd.map DdRun.bytes).getD []) 0 32)
  let i := putAt i 0x1B8 (slice ((x.df.map DfRun.bytes).getD []) 0 40)
  putAt i 0x1E0 (slice (esc.getD []) 0 32)

/-! ### Engine stop and map-out -/

/-- An engine leaves engine reset at the Start slot (R574). -/
def State.startEng (s : State) (e : Nat) : State :=
  let c := s.setLast
  let xv := c.elim 0 CfgSet.xvec
  s.modEng e fun g =>
    let r := g.reset
    { r with
      mode := .running, hold := false, drain := false, pc := BitVec.ofNat 32 (fld xv 31 12 * 4096 + 0xFC0),
      cr := { r.cr with
        esw := { r.cr.esw with cb := BitVec.ofNat 16 (fld xv 47 32) },
        tsbr := c.elim 0 CfgSet.tsbr, xvec := xv, ptroot := c.elim 0 CfgSet.root, scrw := c.elim 0 CfgSet.scrw } }

/-- The live slots of a vat, ascending. -/
def Vat.liveSlots (v : Vat) : List Nat := (List.range 18).filter fun k => v.lmask.getLsbD k

/-- The live slot after a slot in rotation (R584). -/
def Vat.after (v : Vat) (k : Nat) : Nat :=
  match v.liveSlots.find? fun i => decide (k < i) with
  | some i => i
  | none => v.liveSlots.headD 0

/-- STANDBY of ST_STAT (R595). -/
def Vat.standby (v : Vat) : Option Nat := let k := fld v.stStat 58 54; if k = 0x1F then none else some k

/-- A map-out (R592, R593): reason as R608 numbers it. -/
def State.mapOut (s : State) (e reason : Nat) (ctx : List Byte := []) : State :=
  let v := vatOf e
  let k := slotOf e
  let s := (s.sbDrain e).dropAttempt e true |>.1
  let s := s.modEng e fun g => { g.reset with mode := .mapped, hold := true, drain := false }
  let s := s.modVat v fun x =>
    let x := { x with lmask := x.lmask &&& ~~~ BitVec.ofNat 18 (2 ^ k) }
    let st := if fld x.stStat 58 54 = k then setFld x.stStat 58 54 0x1F else x.stStat
    { x with stStat := if fld st 63 59 = k then setFld st 63 59 (x.after k) else st }
  let s := s.modDev fun d => { d with mapped := if d.mapped.contains e then d.mapped else e :: d.mapped }
  let s := s.caveCtx 0x0302 v k [BitVec.ofNat 8 reason, BitVec.ofNat 8 (s.vat v).live] false ctx
  let s := s.event 0x0302 [BitVec.ofNat 8 v, BitVec.ofNat 8 k]
  if (s.vat v).live < 16 && (s.dev.mode = 4 || s.dev.mode = 5) then s.setMode 8 1 else s

/-- The standby engine joins the executing engines at once (R591); in the changeover of step 4 of R585 that is the tested
engine, and NEXT goes on executing (log 35); while it is under test it joins when its slice passes. -/
def State.standbyJoins (s : State) (v : Nat) : State :=
  let x := s.vat v
  match x.standby, x.back with
  | some k, _ => (s.modVat v fun x => { x with stStat := setFld x.stStat 58 54 0x1F }).startEng (18 * v + k)
  | none, some j =>
    ((s.modVat v fun x => { x with back := none }).modEng (18 * v + fld x.stStat 63 59) fun g =>
      { g with drain := false }).startEng (18 * v + j)
  | none, none => if x.slot.isSome && !x.offrot then s.modVat v fun x => { x with joins := true } else s

/-- A slice on a stopped engine starts at once, or waits while the vat's slice runs (R591). -/
def State.sliceStopped (s : State) (e : Nat) : State :=
  let v := vatOf e
  match (s.vat v).slot with
  | some _ => s
  | none => (s.modVat v fun x => { x with slot := some (slotOf e), offrot := true }).modEng e
      fun g => { g with mode := .slice }

/-! ### The roles of a vat's engines (R583 to R585) -/

/-- Whether engines run outside engine reset (R558). -/
def State.enginesRun (s : State) : Bool := decide (3 ≤ s.dev.mode) && decide (s.dev.mode ≤ 8)

/-- An engine returns to executing, where engines run; elsewhere it stays held. -/
def State.returnEng (s : State) (e : Nat) : State :=
  if s.enginesRun then s.startEng e
  else s.modEng e fun g => { g with mode := .held, hold := true, drain := false }

/-- A slot of a vat becomes standby, and the engine that waited for it returns to executing (R585 step 4). -/
def State.toStandby (s : State) (v k : Nat) : State :=
  let back := (s.vat v).back
  let s := s.modVat v fun x => { x with stStat := setFld x.stStat 58 54 k, back := none }
  match back with
  | none => s
  | some j => s.returnEng (18 * v + j)

/-- NEXT of a vat: the slot that the field names, or where that one is not live, as after a vat reset, the live slot after it
(log 36). -/
def Vat.next (x : Vat) : Nat :=
  let k := fld x.stStat 63 59
  if x.lmask.getLsbD k then k else x.after k

/-- The slot NEXT is told to drain into standby (R584, R585); one that is held already is standby at once. -/
def State.drainNext (s : State) (v : Nat) : State :=
  let k := (s.vat v).next
  let g := s.eng (18 * v + k)
  if !(s.vat v).lmask.getLsbD k then s
  else match g.mode with
    | .running => s.modEng (18 * v + k) fun g => { g with drain := true, drained := false }
    | .held => s.toStandby v k
    | _ => s

/-- After a map-out (R583): with 17 or more live engines and none held out, NEXT drains into standby; with 16 or fewer, an
engine that is held out without a slice returns to executing. -/
def State.rebalance (s : State) (v : Nat) : State :=
  let x := s.vat v
  if 17 ≤ x.live then if x.standby.isNone && x.slot.isNone then s.drainNext v else s
  else
    let s := s.modVat v fun x => { x with stStat := setFld x.stStat 58 54 0x1F, back := none }
    let s := match x.standby with | none => s | some k => s.returnEng (18 * v + k)
    match x.back with
    | none => s
    | some j => (s.modEng (18 * v + x.next) fun g => { g with drain := false }).returnEng (18 * v + j)

/-- Patch RAM words and match registers of an accepted patch section (R413, R415). -/
def patchOf (sec : List Byte) : AMap (BitVec 152) × AMap W64 :=
  let nw := numAt sec 4 2
  let nm := numAt sec 6 1
  ((List.range nw).map fun i => (i, BitVec.ofNat 152 (numAt sec (16 + 4 * nm + 19 * i) 19)),
   (List.range nm).map fun i =>
    (i, BitVec.ofNat 64 (2 ^ 31 + numAt sec (16 + 4 * i + 2) 2 * 2 ^ 16 + numAt sec (16 + 4 * i) 2)))

/-- The patch Viari holds: the section of the running image, none when it has none. -/
def Firmware.patch (w : Firmware) : AMap (BitVec 152) × AMap W64 :=
  match Config.patchSection w.image with
  | none => ([], [])
  | some (off, len) => patchOf (slice w.image off len)

/-- All 512 words of patch RAM and the 32 match registers of an engine reloaded from Viari's copy (R417). -/
def State.reloadPatch (s : State) (e : Nat) : State :=
  let p := s.via.fw.patch
  let words := (List.range 512).map fun i => p.1.get i 0
  let pm := (List.range 32).map fun i => (i, p.2.get i 0)
  s.modEng e fun g => { g with rn := g.rn.load words pm }

/-- RN_STAT records an error of a word (R412, R416). -/
def State.rnError (s : State) (e port ea : Nat) : State :=
  s.modEng e fun g => { g with rn := { g.rn with stat := satFld (setFld (setFld g.rn.stat 50 38 ea) 37 26 port) 25 18 1 } }

/-- What the cave record of an engine stop holds (R608). -/
def stopData (cls sub step bank pc faddr ea ep : Nat) (tx : Bool) : List Byte :=
  [BitVec.ofNat 8 cls, BitVec.ofNat 8 sub, BitVec.ofNat 8 step, 0] ++ toBytes 2 bank ++ toBytes 4 pc ++
    toBytes 6 faddr ++ toBytes 2 ea ++ toBytes 2 ep ++ [if tx then 1 else 0]

/-- What Viari does with an engine that a word of Rennet stopped (R417): after a mask ROM error, and after a second patch RAM
error within 1,024 turns, it maps the engine out, and the vat's roles follow (R583); else it reloads patch RAM, and the engine goes back as a spare unless the
device is in Safe Hold. -/
def State.microStopped (s : State) (e sub : Nat) (last : Option Nat) : State :=
  if sub = 3 then (s.mapOut e 2).rebalance (vatOf e)
  else if last.elim false fun t => decide (s.trn.turn ≤ t + 1024) then (s.mapOut e 3).rebalance (vatOf e)
  else
    let s := (s.reloadPatch e).modEng e fun g => { g with rn := { g.rn with lastStop := some s.trn.turn } }
    if s.dev.mode = 9 then s else s.sliceStopped e

/-- The context blocks of an engine stop (R609): the TSB image that an entry would save, or in Salvage the Salvage TSB, and
RN_STAT for a word of Rennet. -/
def State.stopCtx (s : State) (e : Nat) (x : Entry) (micro : Bool) : List Byte :=
  let g := s.eng e
  let img := if g.cr.esw.salv then readBytes g.mem.sram 0 512 else s.tsbImage e x none
  ctxBlock 1 img ++ if micro then ctxBlock 2 (toBytes 8 g.rn.stat.toNat) else []

/-- An engine stops (R402, R403, R591): the store buffer is written, the attempt abandoned, the engine held in reset, the
event and record made, with ESCR.STEP of the Salvage TSB in Salvage (R608), the standby engine joins and the stopped engine is
treated by the cause. A third stop of a transaction puts the device in Safe Hold. -/
def State.stopEng (s : State) (e : Nat) (x : Entry) (port : Nat) : State :=
  let g := s.eng e
  let v := vatOf e
  let k := slotOf e
  let cls := x.exc.cls
  let sub := x.exc.sub
  let micro := cls = 1 && (sub = 2 || sub = 3)
  let ea := if micro then fld g.rn.stat 50 38 else 0
  let step := if g.cr.esw.salv then (readByte g.mem.sram 0x1E0).toNat else 0
  let data := stopData cls sub step g.cr.esw.cb.toNat g.pc.toNat x.exc.faddr ea (if micro then port else 0) g.att.isSome
  let ctx := s.stopCtx e x micro
  let (s, third) := (s.sbDrain e).dropAttempt e true
  let s := s.modEng e fun g => { g.reset with mode := .stopped }
  let s0 := s
  let s := s.caveCtx 0x0301 v k data third ctx
  let why := s0.causeOf s 0x0301
  let s := s.event 0x0301 [BitVec.ofNat 8 v, BitVec.ofNat 8 k, BitVec.ofNat 8 (if cls = 1 then sub else cls)]
  let s := if third then s.safeHold (some why) none else s.standbyJoins v
  if micro then s.microStopped e sub g.rn.lastStop else if third then s else s.sliceStopped e

/-- A word of Rennet fails (R411, R416): RN_STAT records it and the engine stops. -/
def State.microStop (s : State) (e sub port ea : Nat) : State :=
  let s := s.rnError e port ea
  s.stopEng e { exc := { cls := xMcheck, sub := sub } } port

/-! ### Entry (R379 to R381) and Salvage (R399) -/

/-- Every product triggered before has landed (R191): the latest one stays, marked as landed. -/
def landProds (l : List Prod) : List Prod :=
  match l.getLast? with
  | none => []
  | some p => [{ p with at_ := 0 }]

/-- A microword that fails among those of an operation that runs to its END, as SUB and EADDR (R404, R409 to R411, R416): a
ROM word, or where a match register is in force a patch word, whose parity has gone bad at an open microaddress (log 19), or
a word that Rennet.step refuses. -/
def State.rnFault (s : State) (e : Nat) (v : Env) (p op : Nat) : Option (Nat × Nat) :=
  let rn := (s.eng e).rn
  if v.parity = some 3 then some (3, Config.freeNat s.fresh % 4096)
  else if !rn.live then none
  else if v.parity = some 2 then some (2, 4096 + Config.freeNat s.fresh % 512)
  else match rn.run false s.fresh 4096 true { at_ := rnEntry p op false } with
    | .fail sub ea _ => some (sub, ea)
    | _ => none

/-- A busy DF div runs to its END (R278, R379, R409): a microword that fails stops the engine in its place (R416). -/
def State.dfEnd (s : State) (e : Nat) : State :=
  match (s.eng e).df with
  | none => s
  | some d => match s.rnFault e {} 0x2B3 d.opmod.toNat with
    | some (sub, ea) => s.draw.microStop e sub 0x2B3 ea
    | none => s.dfDone e

/-- Long operations at an entry (R379): abandoned in the service modes, else completed, and the store buffer written. -/
def State.landAll (s : State) (e : Nat) : State × Option DdRun × Option DfRun :=
  let land (s : State) := s.modEng e fun g => { g with
    prog := { g.prog with prods := landProds g.prog.prods }, hand := { g.hand with prods := landProds g.hand.prods },
    str := none, wait := none, missing := none, mem := { g.mem with early := [] } }
  if s.serviceMode e then
    let g := s.eng e
    (land (s.modEng e fun g => { g with dd := none, df := none }), g.dd, g.df)
  else (land (((s.ddDone e).dfEnd e).sbDrain e), none, none)

/-- Salvage entry (R399): the Salvage TSB, T16 to T19, ESW and SP, and fetch at offset 0x2000 of local SRAM. In Salvage
already, the engine stops (R400). -/
def State.salvage (s : State) (e : Nat) (x : Entry) (step cls addr : Nat) : State :=
  let img := s.tsbImage e x (some (escr step cls addr))
  let at8 (o : Nat) : Tally := BitVec.ofNat 96 (numAt img o 8)
  s.modEng e fun g => { g with
    mem := { g.mem with sram := writeBytes g.mem.sram 0 img },
    t := (((g.t.set 16 (at8 0x18)).set 17 (at8 0x20)).set 18 (at8 0x1E0)).set 19 (at8 0x1E8),
    hset := true, pc := 0x2000, imp := none,
    cr := { g.cr with
      sp := 0x2000,
      esw := { g.cr.esw with salv := true, priv := true, ie := false, bp := false, la := false, key := 0 } } }

/-- The address of the TSB that TSBR names (R148). -/
def tsbOff (w : W64) : Nat := fld w 31 9 * 512

/-- An entry is made (R380): the state saved, the vector fetched, the ESW changed; or Salvage, or in Salvage the engine
stops. dd and df: divides to record, beside those abandoned here. An engine that a microword has stopped makes none (R416).
-/
def State.enter (s : State) (e : Nat) (ue : List Nat) (x : Entry) : State :=
  if (s.eng e).mode ≠ .running then s else
  let s := s.modEng e fun g => g.flags x.exc.aflag
  if (s.eng e).cr.esw.salv then
    s.stopEng e x 0
  else
    let s := (s.syncEvent e).strFill e ue
    let (s, dd, df) := s.landAll e
    if (s.eng e).mode ≠ .running then s else
    let x := { x with dd := x.dd <|> dd, df := x.df <|> df }
    let c := (s.eng e).cr
    let bank := fld c.tsbr 47 32
    let off := tsbOff c.tsbr
    if !bit c.tsbr 0 then s.salvage e x 1 0 0
    else if c.esw.tx ≠ 0 && !(inScratch c.scrw bank off) then s.salvage e x 2 0 0
    else match s.access e ue (s.supCtx e) .store bank off 512 1 with
      | (s, .error (.exc y)) => s.salvage e x 3 y.cls (y.faddr % 2 ^ 48)
      | (s, .error (.ue pa f)) => s.ueSafe pa f
      | (s, .error _) => s.salvage e x 3 xMcheck (bank * 2 ^ 32 + off)
      | (s, .ok pl) =>
        let s := s.putTsb e pl (s.tsbImage e x none)
        let c := (s.eng e).cr
        let vb := fld c.xvec 47 32
        let vo := fld c.xvec 31 12 * 4096 + 64 * x.exc.cls
        match s.access e ue (s.supCtx e) .fetch vb vo 64 1 with
        | (s, .error (.exc y)) => s.salvage e x 4 y.cls (y.faddr % 2 ^ 48)
        | (s, .error (.ue pa f)) => s.ueSafe pa f
        | (s, .error _) => s.stopEng e { x with exc := { cls := xMcheck, sub := 1 } } 0
        | (s, .ok _) => s.modEng e fun g => { g with
            hset := true, pc := BitVec.ofNat 32 vo, imp := none,
            cr := { g.cr with esw := { g.cr.esw with
              priv := true, ie := false, bp := false, la := false, cb := BitVec.ofNat 16 vb } } }

/-- An exception is taken at the present program address (R182, R371). -/
def State.raise (s : State) (e : Nat) (ue : List Nat) (x : Exc) (ilen : Nat) : State :=
  s.enter e ue { exc := x, ilen := ilen }

/-- The entry of a report (R384), with the length of the Curd instruction at the program address, if any. -/
def State.enterReport (s : State) (e : Nat) (ue : List Nat) (i : Imprecise) (ilen : Nat) : State :=
  s.enter e ue { exc := { cls := 0x15 + i.kind, faddr := slotPort i.slot i.trig.toNat }, imp := some i, ilen := ilen }

/-- The pending imprecise condition is reported (R384), or rolls the attempt back inside a transaction (R386). -/
def State.report (s : State) (e : Nat) (ue : List Nat) (i : Imprecise) : State :=
  if (s.eng e).att.isSome then s.rollBack e else s.enterReport e ue i 0

/-- The interrupt that is requested and may be taken in this state (R156, R391, R392), by its class code. -/
def State.irqReq (s : State) (e : Nat) : Option Nat :=
  let c := (s.eng e).cr
  if c.esw.ie && c.esw.tx = 0 && !c.esw.salv then
    if bit c.intm 0 && bit c.tkctl 1 then some 0x20 else if bit c.intm 1 && c.vs then some 0x21 else none
  else none

/-- The interrupt taken at a bundle boundary: never between a branch and its delay bundle (R392). -/
def State.irq (s : State) (e : Nat) : Option Nat := if (s.eng e).cr.esw.bp then none else s.irqReq e

/-- An asynchronous machine check due at a boundary (R394, R395): entered, with a pending report in its TSB (R385); inside
a posting or peek the engine stops (R371). -/
def State.mcheck (s : State) (e : Nat) (ue : List Nat) (va : BitVec 48) (ilen : Nat) : State :=
  let s := s.modEng e fun g => { g with amc := none }
  let x : Entry := { exc := { cls := xMcheck, sub := 4, faddr := va.toNat }, imp := (s.eng e).imp, ilen := ilen }
  if (s.eng e).att.isSome then s.stopEng e x 0 else s.enter e ue x

/-- In Prime, Recovery and Test-Open busy divides complete before an entry (R379), so that an enabled condition of theirs is
pending as the entry is chosen (R252, R385). -/
def State.longDone (s : State) (e : Nat) : State := if s.serviceMode e then s else (s.ddDone e).dfEnd e

/-- A report that becomes due with an entry (R385): made, or rolled back, once the divide that may add to it has decided
(R384); until then the bundle waits. -/
def State.reportDue (s0 s : State) (e : Nat) (ue : List Nat) (i : Imprecise) : State :=
  if (s.eng e).owes then s0 else s.report e ue i

/-- A Halt carried out on the engine (R78, R396, R402): the state before the command's moves, with the TLB fills. Of an
exception's bundle, a machine check, a report and an interrupt that are due come first (R372). -/
def State.halted (s0 s : State) (e : Nat) (ue : List Nat) (ilen : Nat) (h : Halt) : Answer :=
  match h with
  | .exc x =>
    let s := s.longDone e
    match (s.eng e).amc, (s.eng e).cr.esw.bp, (s.eng e).imp with
    | some va, false, _ => .next (s.mcheck e ue va ilen)
    | _, _, some i => .next (State.reportDue s0 s e ue i)
    | _, _, none => match s.irq e with
      | some c => .next (s.enter e ue { exc := { cls := c }, ilen := ilen })
      | none => .next (s.raise e ue x ilen)
  | .ue pa f => .next (s.ueSafe pa f)
  | .solo => .next (s.goSolo e)
  | .limit => .next (s.seal e 3 [])
  | .rollback => .next (s.rollBack e)
  | .stop sub port => .next (s.stopEng e { exc := { cls := xMcheck, sub := sub } } port)
  | .micro sub port ea => .next (s.microStop e sub port ea)
  | .stall => .next s0
  | .regStall v => .next (s0.stallCount 5 v)
  | .refuse => .refused .notThisCommand

/-! ### RETX (R382, R383) -/

/-- The loop-end rule after a bundle at an offset retires (R200): the next offset. -/
def Eng.after (g : Eng) (pc : BitVec 32) : Eng :=
  let c := g.cr
  if c.esw.la && pc = c.le then
    let lc := c.lc - 1
    if lc = 0 then { g with pc := pc + 16, cr := { c with lc := lc, esw := { c.esw with la := false } } }
    else { g with pc := c.ls, cr := { c with lc := lc } }
  else { g with pc := pc + 16 }

/-- What RETX loads from a checked image (R374, R382 step 4, R383). -/
def Eng.loadTsb (g : Eng) (img : List Byte) : Eng :=
  let n (o k : Nat) := numAt img o k
  let w : W64 := BitVec.ofNat 64 (n 0 8)
  let cause : W64 := BitVec.ofNat 64 (n 0x18 8)
  let bw (k o m : Nat) : BitVec k := BitVec.ofNat k (n o m)
  let esw : Esw := {
    cb := BitVec.ofNat 16 (fld w 63 48), sb := BitVec.ofNat 16 (fld w 47 32), drnd := BitVec.ofNat 3 (fld w 31 29),
    dfrnd := BitVec.ofNat 3 (fld w 28 26), dfte := BitVec.ofNat 5 (fld w 25 21), dxe := BitVec.ofNat 3 (fld w 20 18),
    key := BitVec.ofNat 4 (fld w 17 14), tx := g.cr.esw.tx, salv := false, bp := bit w 10, la := bit w 9,
    pr := bit w 3, ie := bit w 2, priv := bit w 0 }
  let g := { g with
    t := g.t.take 16 ++ (List.range 16).map fun i => BitVec.ofNat 96 (n (0x80 + 12 * i) 12)
    p := BitVec.ofNat 16 (n 0x68 2 / 2 * 2 + 1), b := banksOf img 0x70,
    bt := BitVec.ofNat 48 (n 0x10 8), pc := bw 32 0x0C 4, hset := bit cause 46,
    cr := { g.cr with
      esw := esw, sp := bw 32 0x30 4 / 4 * 4, osp := bw 32 0x34 4 / 4 * 4, ls := bw 32 0x40 4 / 16 * 16,
      le := bw 32 0x44 4 / 16 * 16, lc := bw 32 0x48 4, scnt := bw 32 0x4C 4, ssrc := bw 48 0x50 8,
      sdst := bw 48 0x58 8, saux := bw 64 0x60 8 } }
  if bit cause 47 then
    let g := g.countUp
    if esw.bp then { g with
      pc := g.bt.setWidth 32, cr := { g.cr with esw := { g.cr.esw with
        bp := false, cb := (g.bt >>> (32 : Nat)).setWidth 16 } } }
    else g.after g.pc
  else g

/-- The DD divide of a TSB (R377). -/
def ddOf (img : List Byte) (org : BitVec 48) (at_ : Nat) : DdRun :=
  ⟨BitVec.ofNat 96 (numAt img 0x19C 12), BitVec.ofNat 96 (numAt img 0x1A8 12), BitVec.ofNat 9 (numAt img 0x198 4),
   BitVec.ofNat 3 (numAt img 0x198 4 / 2 ^ 16), org, at_, false, 3, false⟩

/-- The DF div of a TSB (R377). -/
def dfOf (img : List Byte) : DfRun :=
  let h := numAt img 0x1B8 4
  let l (o : Nat) (b : Nat) : DfLatch :=
    ⟨BitVec.ofNat 64 (numAt img o 8), BitVec.ofNat 64 (numAt img (o + 8) 8), decide (h / 2 ^ b % 2 = 1)⟩
  ⟨l 0x1C0 17, l 0x1D0 16, BitVec.ofNat 9 h, BitVec.ofNat 3 (h / 2 ^ 20), false⟩

/-- Whether precise delivery is in force (R252): PR 1, or Curd. -/
def Esw.precise (x : Esw) : Bool := x.pr || !x.priv

/-- The trap record of a Decimal Float Trap (R276, R377). -/
def dftRecord (trig op : Nat) (o o2 t : DfLatch) (cond : Nat) (res : List Byte) : List Byte :=
  toBytes 2 trig ++ toBytes 2 op ++ [BitVec.ofNat 8 cond,
    BitVec.ofNat 8 (o.pair.toNat * 4 + o2.pair.toNat * 2 + t.pair.toNat)] ++ [0, 0] ++
    o.bytes ++ t.bytes ++ o2.bytes ++ slice res 0 16

/-- Abandoned divides start again before the first returned-to bundle (R382 step 5, R634): an enabled condition with
precise delivery, or an enabled float condition, is entered at once. A divide of the handler that still runs in a unit
that starts one again completes first (R183). -/
def State.restart (s : State) (e : Nat) (ue : List Nat) (img : List Byte) : State :=
  let flag (i : Nat) : Bool := bit (BitVec.ofNat 64 (numAt img 0x18 8)) i
  let s := if flag 43 then s.ddDone e else s
  let s := if flag 42 then s.dfEnd e else s
  if (s.eng e).mode ≠ .running then s else
  let g := s.eng e
  let x := s.esw e
  let org : BitVec 48 := BitVec.ofNat 48 (x.cb.toNat * 2 ^ 32 + g.pc.toNat)
  let dd := if flag 43 then some (ddOf img org (g.nb - 1)) else none
  let df := if flag 42 then some (dfOf img) else none
  let on (d : DdRun) : DdRun := { d with on := d.res.cond.elim false x.enabled }
  let ddX : Option Exc := dd.bind fun d => d.res.cond.bind fun c =>
    if x.enabled c && x.precise then
      some { cls := xOfCond c, faddr := slotPort 3 0x290, aflag := aflagOf c } else none
  let dfX : Option Exc := df.bind fun d =>
    if x.dfte.toNat &&& d.res.2 ≠ 0 then
      some { cls := xFloat, faddr := slotPort 3 0x2B3, aflag := d.res.2,
             dft := some (dftRecord 0x2B3 d.opmod.toNat d.o {} d.t d.res.2 (toBytes 16 (
               if d.opmod.toNat % 2 = 1 then d.res.1.toNat else d.res.1.toNat * 2 ^ 64))) } else none
  match ddX <|> dfX with
  | some y => s.enter e ue { exc := y, dd := dd, df := df }
  | none =>
    let m := s.modeAt e
    s.modEng e fun g => { g with
      dd := (dd.map on) <|> g.dd, df := df <|> g.df, seen := if flag 43 || flag 42 then m else g.seen }

/-- The reads that an instruction registered stay registered when it raises an exception on what it read (R84, R88). -/
def State.keepReads (s0 s : State) : State := { s0 with prs := s.prs }

/-- RETX gives user code the engine (R222): inside a transaction an imprecise condition that its own bundle has raised
rolls the attempt back at once, for no report point lies in user code (R83, R254, R384). -/
def State.toUser (s : State) (e : Nat) : State :=
  let g := s.eng e
  if !g.cr.esw.priv && g.att.isSome && g.doubtful then s.rollBack e else s

/-- RETX (R382): the image read and checked, then loaded, divides started again, and fetch continued. A PC or BT whose low
four bits are not 0 is loaded as it is, for no check names it (log 42). -/
def State.retx (s : State) (e : Nat) (ue : List Nat) : State × Except Halt State :=
  let s := s.syncEvent e
  let bad : Exc := { cls := xReserved, faddr := slotPort 3 0x395 }
  let c := (s.eng e).cr
  let read : State × Except Halt (State × List Byte) :=
    if c.esw.salv then (s, .ok (s, readBytes (s.eng e).mem.sram 0 512))
    else if !bit c.tsbr 0 then (s, .error (.exc bad))
    else match s.access e ue (s.supCtx e) .load (fld c.tsbr 47 32) (tsbOff c.tsbr) 512 1 with
      | (s, .error h) => (s, .error h)
      | (s, .ok pl) => (s, s.load e pl 512)
  match read with
  | (s, .error h) => (s, .error h)
  | (s0, .ok (s, img)) =>
    let w : W64 := BitVec.ofNat 64 (numAt img 0 8)
    let cause : W64 := BitVec.ofNat 64 (numAt img 0x18 8)
    let user := !bit w 0
    let osp := numAt img 0x34 4 / 4 * 4
    if eswBad w || (user && (bit w 10 || bit w 9 || bit cause 47 || bit cause 46 || bit cause 43 || bit cause 42)) then
      (s0.keepReads s, .error (.exc bad))
    else if user && !(decide (c.oslo.toNat ≤ osp) && decide (osp ≤ c.oshi.toNat) &&
        decide ((osp - c.oslo.toNat) % 12 = 0)) then
      (s0.keepReads s, .error (.exc { cls := xBounds }))
    else (s0, .ok (((s.modEng e fun g => g.loadTsb img).restart e ue img).toUser e))

end Sys2Proof.Machine
end

