-- ==== Sys2Proof/Machine/Flags.lean ====
section
/-! DEFINITION. Conditions and flags: how a unit's result, condition, guard and AFLAG bits are delivered (R252, R272,
R274), and what the ALU and DF compute. -/

namespace Sys2Proof.Machine

/-- What a move does once every check of its bundle has passed (R180): the step of its trigger, the guard it writes, the
branch it takes, what happens as the bundle retires, where the next bundle lies, the load ports that wait, and what the
parts of a split load that waits may have read (R360). -/
structure Act where
  run : State → Except Halt State := .ok
  guard : Nat := 0
  gval : Bool := false
  branch : Option (Nat × Nat × Bool) := none
  late : Option (State → State × Except Halt State) := none
  skip : Option Nat := none
  waits : List Nat := []
  early : List (Nat × List Byte) := []

/-- An act that only changes the port set in use. -/
def Act.ports (e : Nat) (handler : Bool) (f : Ports → Ports) : Act :=
  { run := fun s => .ok (s.modEng e fun g => g.setPorts handler f) }

/-- The program address of the present bundle or instruction (R173). -/
def Eng.here (g : Eng) : BitVec 48 := BitVec.ofNat 48 (g.cr.esw.cb.toNat * 2 ^ 32 + g.pc.toNat)

/-- A decimal unit's outcome delivered (R252): the AFLAG bit; an enabled condition is the exception when precise, else
the masked result with an imprecise record. -/
def State.settle (s : State) (e slot trig dest fa : Nat) (r : URes) (f : Ports → Ports) : Prep Act :=
  let g := s.eng e
  let x := s.esw e
  match r.cond with
  | none => (s, .ok { Act.ports e g.hset f with guard := r.guard, gval := r.gval })
  | some c =>
    if x.enabled c && x.precise then (s, .error (.exc { cls := xOfCond c, faddr := fa, aflag := aflagOf c }))
    else
      let i : Imprecise := {
        slot := slot, trig := BitVec.ofNat 12 trig, kind := kindOf c, dest := BitVec.ofNat 12 dest, org := g.here, at_ := g.nb }
      (s, .ok { run := fun s => .ok (s.modEng e fun g =>
                  let g := (g.setPorts g.hset f).flags (aflagOf c)
                  if x.enabled c then g.note i else g), guard := r.guard, gval := r.gval })

/-- An ALU trigger by index (R187). -/
def aluOp (i : Nat) (o t : W64) : W64 :=
  let n := t.toNat % 64
  match i with
  | 0 => o + t
  | 1 => o - t
  | 2 => o &&& t
  | 3 => o ||| t
  | 4 => o ^^^ t
  | 5 => o <<< n
  | 6 => o >>> n
  | 7 => o.sshiftRight n
  | 8 => o * t
  | 9 => if o = t then 1 else 0
  | 10 => if o.slt t then 1 else 0
  | _ => if o.ult t then 1 else 0

/-- A DF operand from a moved value (R259). -/
def latchOf (v : BitVec 128) (pair : Bool) : DfLatch :=
  if pair then ⟨(v >>> (64 : Nat)).setWidth 64, v.setWidth 64, true⟩ else ⟨v.setWidth 64, 0, false⟩

/-- What a DF trigger delivers: value, flags, whether it is a pair, and the guard. -/
structure DfRes where
  val : Nat
  flags : Nat
  wide : Bool := false
  guard : Nat := 0
  gval : Bool := false
  deriving DecidableEq, Repr

/-- A DF trigger by index (R260, R263 to R267). -/
def dfOp (i op : Nat) (dfrnd : BitVec 3) (o o2 t : DfLatch) : DfRes :=
  let w := decide (op % 2 = 1)
  let v (x : DfLatch) : Df := dfDec w (if w then x.hi.toNat * 2 ^ 64 + x.lo.toNat else x.hi.toNat)
  let m := rdOf (op / 2 % 8) dfrnd.toNat
  let out (r : Df × Nat) : DfRes := { val := dfEnc w r.1, flags := r.2, wide := w }
  let cmp (sig : Bool) : DfRes :=
    let r := dfCmp sig (op / 2 % 8) (v o) (v t)
    { val := r.1.toNat, flags := r.2, guard := op / 16 % 16, gval := r.1 }
  match i with
  | 0 => out (dfAdd w m (v o) (v t))
  | 1 => out (dfSub w m (v o) (v t))
  | 2 => out (dfMul w m (v o) (v t))
  | 3 => out (dfDiv w m (v o) (v t))
  | 4 => out (dfFma w m (v o) (v t) (v o2))
  | 5 => cmp false
  | 6 => cmp true
  | 7 => out (dfQuant w m (v o) (v t))
  | 8 => out (dfRint m (decide (op / 16 % 2 = 1)) (v t))
  | 9 => out (dfScaleb w m (v t) o2.hi.toInt)
  | 10 => out (dfMinMax false (v o) (v t))
  | 11 => out (dfMinMax true (v o) (v t))
  | 12 =>
    let r := dfWiden (dfDec false t.hi.toNat)
    { val := dfEnc true r.1, flags := r.2, wide := true }
  | _ =>
    let r := dfNarrow m (dfDec true (t.hi.toNat * 2 ^ 64 + t.lo.toNat))
    { val := dfEnc false r.1, flags := r.2 }

/-- Whether a decimal128 operand of a DF trigger lacks its pair (R189, R259). -/
def dfPairBad (i op : Nat) (o o2 t : DfLatch) : Bool :=
  decide (op % 2 = 1) && (!t.pair || (!o.pair && [0, 1, 2, 3, 4, 5, 6, 7, 10, 11].contains i) || (i = 4 && !o2.pair))

/-- The default result of a DF trigger as 16 bytes, a decimal64 value or a comparison in the first 8 (R377). -/
def DfRes.bytes (r : DfRes) : List Byte := if r.wide then toBytes 16 r.val else toBytes 8 r.val

end Sys2Proof.Machine
end

