-- ==== Sys2Proof/Machine/Units.lean ====
section
/-! DEFINITION. The units of an engine as triggers: ALU, DA, DM, DD, DF, CV, CK and LS (R187, R188, R241 to R250, R259 to
R278), each checked first and then carried out (R180, R182). Rind bundles and Curd instructions share them (R221). -/

namespace Sys2Proof.Machine

/-- A product list with a new product of the present bundle (R191). -/
def pushProd (l : List Prod) (nb : Nat) (hi lo : Tally) : List Prod :=
  let l := l ++ [⟨nb + 1, hi, lo⟩]
  l.drop (l.length - 8)

/-- The product that MP0 and MP1 return in bundle nb (R191): the latest with a distance of at least 7. -/
def landed (l : List Prod) (nb : Nat) : Tally × Tally :=
  match l.reverse.find? (fun p => decide (p.at_ = 0) || decide (p.at_ + 6 ≤ nb)) with
  | some p => (p.hi, p.lo)
  | none => (0, 0)

/-- A load checked and carried out (R188): its bytes go to a function of the port set. -/
def State.loadAct (s : State) (e : Nat) (v : Env) (c : Ctx) (bank off n align port : Nat)
    (f : Nat → Eng → Eng) : Prep Act :=
  match s.access e (ueLines v) c .load bank off n align with
  | (s, .error h) => (s, .error h)
  | (s, .ok pl) =>
    (s, .ok {
      run := fun s => match s.load e pl n with
        | .error h => .error h
        | .ok (s, b) => .ok (s.modEng e (f (ofBytes b)))
      waits := if s.waits e v pl then [port] else []
      early := if s.waits e v pl then s.earlyOf e pl else [] })

/-- A store checked and carried out (R188, R354). -/
def State.storeAct (s : State) (e : Nat) (v : Env) (c : Ctx) (bank off n align val : Nat) : Prep Act :=
  match s.access e (ueLines v) c .store bank off n align with
  | (s, .error h) => (s, .error h)
  | (s, .ok pl) => (s, .ok { run := fun s => s.store e pl (toBytes n val) })

/-- Bytes and alignment of the LS triggers by index modulo 8 (R188). -/
def lsSize (i : Nat) : Nat × Nat :=
  match i % 8 with
  | 0 => (1, 1) | 1 => (2, 2) | 2 => (4, 4) | 3 => (8, 8) | _ => (12, 4)

/-- An LS trigger (R188). -/
def State.lsOp (s : State) (e : Nat) (v : Env) (po : Ports) (p op : Nat) (t : BitVec 128) : Prep Act :=
  let g := s.eng e
  let i := p % 16
  let one := decide (0x370 ≤ p)
  let bank := (g.b.getD (op % 8) 0).toNat
  let off := (t.toNat % 2 ^ 32 + 4 * (op / 8)) % 2 ^ 32
  let (n, al) := lsSize i
  if i < 8 then
    s.loadAct e v (s.ctx e) bank off n al one.toNat fun w g =>
      g.setPorts g.hset fun q => if one then { q with ls1r := BitVec.ofNat 96 w } else { q with ls0r := BitVec.ofNat 96 w }
  else
    let o := if one then po.ls1o else po.ls0o
    s.storeAct e v (s.ctx e) bank off n al (if n = 12 then o.toNat else o.toNat % 2 ^ (8 * n))

/-- A microword of an operation that ends in the step of its trigger fails (R404, R416): the engine stops, in place of a
bundle or instruction whose delivery is precise, else after the bundle has retired. -/
def State.wordFails (s : State) (e p : Nat) (k : Nat × Nat) (now : Bool) : Prep Act :=
  if now then (s.draw, .error (.micro k.1 p k.2))
  else (s.draw, .ok { late := some fun s => (s, .ok (s.microStop e k.1 p k.2)) })

/-- A DF trigger (R260 to R278). With a DFTE bit set the operation completes within its bundle (R275). -/
def State.dfTrig (s : State) (e : Nat) (v : Env) (po : Ports) (fa p op : Nat) (t : DfLatch) : Prep Act :=
  let x := s.esw e
  let i := p % 16
  let run (r : DfRes) : Act := {
    run := fun s => .ok (s.modEng e fun g => (g.flags r.flags).setPorts g.hset fun q => { q with
      dfr := ⟨BitVec.ofNat 128 r.val, r.wide⟩ }), guard := r.guard, gval := r.gval }
  if dfPairBad i op po.dfo po.dfo2 t then (s, .error (.exc { cls := xPort, faddr := fa }))
  else match (if i = 3 && !(x.dfte = 0 && x.priv) then s.rnFault e v p op else none) with
  | some k => s.wordFails e p k true
  | none =>
    let r := dfOp i op x.dfrnd po.dfo po.dfo2 t
    if x.dfte.toNat &&& r.flags ≠ 0 then
      (s, .error (.exc {
        cls := xFloat, faddr := fa, aflag := r.flags,
        dft := some (dftRecord p op po.dfo po.dfo2 t r.flags r.bytes) }))
    else if i = 3 && x.dfte = 0 && x.priv then
      let m := s.modeAt e
      (s, .ok { run := fun s => .ok (s.modEng e fun g => { g with seen := m, df := some {
        o := po.dfo, t := t, opmod := BitVec.ofNat 9 op, dfrnd := x.dfrnd, handler := g.hset } }) })
    else (s, .ok (run r))

/-- CV t2f (R247): the only CV trigger with float flags; a Decimal Float Trap records its operand, a tally word and no pair,
as t (R377). -/
def State.t2fTrig (s : State) (e slot fa op : Nat) (t : Tally) : Prep Act :=
  let g := s.eng e
  let x := s.esw e
  let r := cvT2f t op x.dfrnd.toNat
  let wide := decide (op % 2 = 1)
  match r.1 with
  | some c => s.settle e slot 0x2D2 0x2C1 fa { cond := some c } fun q => { q with
      cvr := ⟨BitVec.ofNat 128 r.2.1, wide⟩ }
  | none =>
    let fl := r.2.2
    if x.dfte.toNat &&& fl ≠ 0 then
      (s, .error (.exc {
        cls := xFloat, faddr := fa, aflag := fl,
        dft := some (dftRecord 0x2D2 op {} {} { latchOf (t.setWidth 128) true with pair := false } fl
          (if wide then toBytes 16 r.2.1 else toBytes 8 r.2.1)) }))
    else (s, .ok { run := fun s => .ok (s.modEng e fun g' => (g'.flags fl).setPorts g.hset fun q => { q with
        cvr := ⟨BitVec.ofNat 128 r.2.1, wide⟩ }) })

/-- A trigger of ALU0, ALU1, DA, DM, DD, DF, CV (binary), CK or LS: p its port, op its OPMOD, t the value moved in and
whether it is a register pair, po the operand latches, fa the FADDR of its exceptions. -/
def State.unitOp (s : State) (e : Nat) (v : Env) (po : Ports) (slot fa p op : Nat) (t : BitVec 128) (pair : Bool) :
    Prep Act :=
  let g := s.eng e
  let x := s.esw e
  let drnd := x.drnd.toNat
  let tt : Tally := t.setWidth 96
  let t64 : W64 := t.setWidth 64
  let i := p % 16
  match unitOf p with
  | 0x10 =>
    let r := aluOp i po.alu0o t64
    (s, .ok { Act.ports e g.hset (fun q => { q with alu0r := r }) with
      guard := if 9 ≤ i then op % 16 else 0, gval := decide (r = 1) })
  | 0x11 =>
    let r := aluOp i po.alu1o t64
    (s, .ok { Act.ports e g.hset (fun q => { q with alu1r := r }) with
      guard := if 9 ≤ i then op % 16 else 0, gval := decide (r = 1) })
  | 0x12 =>
    let r := match i with
      | 0 => daAdd po.dao tt op
      | 1 => daSub po.dao tt op
      | 2 => daCmp po.dao tt op
      | 3 => daSrnd tt op drnd
      | 4 => daNeg tt
      | 5 => daAbs tt op
      | _ => daTest tt op
    s.settle e slot p 0x241 fa r fun q => { q with dar := r.r }
  | 0x13 =>
    let r := dmMul po.dmo tt op drnd
    s.settle e slot p 0x262 fa r fun q => { q with prods := pushProd q.prods g.nb r.r r.r2 }
  | 0x14 =>
    let d : DdRun := {
      o := po.ddo, t := tt, opmod := BitVec.ofNat 9 op, drnd := x.drnd, org := g.here, at_ := g.nb, handler := g.hset,
      slot := slot }
    let r := d.res
    let on := r.cond.elim false x.enabled
    let m := s.modeAt e
    if on && x.precise then s.settle e slot p 0x281 fa r id
    else if x.priv then
      (s, .ok { run := fun s => .ok (s.modEng e fun g => { g with dd := some { d with on := on }, seen := m }) })
    else s.settle e slot p 0x281 fa r fun q => { q with dq := r.r, drm := r.r2 }
  | 0x15 => s.dfTrig e v po fa p op (latchOf t pair)
  | 0x16 =>
    if i = 3 && decide (op % 2 = 1) && !pair then (s, .error (.exc { cls := xPort, faddr := fa }))
    else match s.rnFault e v p op with
    | some k => s.wordFails e p k (x.precise || (i = 2 && x.dfte ≠ 0))
    | none => match i with
    | 0 =>
      let r := cvB2d t64 op
      s.settle e slot p 0x2C1 fa r fun q => { q with cvr := ⟨r.r.setWidth 128, false⟩ }
    | 1 =>
      let r := cvD2b tt op
      s.settle e slot p 0x2C1 fa r fun q => { q with cvr := ⟨r.r.setWidth 128, false⟩ }
    | 2 => s.t2fTrig e slot fa op tt
    | _ =>
      let l := latchOf t pair
      let r := cvF2t (if op % 2 = 1 then l.hi.toNat * 2 ^ 64 + l.lo.toNat else l.hi.toNat) op drnd
      s.settle e slot p 0x2C1 fa r fun q => { q with cvr := ⟨r.r.setWidth 128, false⟩ }
  | 0x17 =>
    let r := ckOp i tt op
    s.settle e slot p 0x2E1 fa r fun q => { q with ckr := r.r }
  | _ => s.lsOp e v po p op t

/-- Whether a trigger waits for a busy divide (R183, R190, R278): DD behind DD, DF and every Rennet operation behind DF
div. -/
def Eng.busyFor (g : Eng) (p : Nat) : Bool :=
  (unitOf p = 0x14 && g.dd.isSome) || ([0x15, 0x16, 0x18, 0x19].contains (unitOf p) && g.df.isSome)

end Sys2Proof.Machine
end

