-- ==== Sys2Proof/Machine/Strings.lean ====
section
/-! DEFINITION. The string-class operations (R280 to R301, R249): start checks, iterations of ST, ED and the memory
operations of CV, and the string state they leave. -/

namespace Sys2Proof.Machine

/-- Whether a trigger is string-class (R280). -/
def isStr (p : Nat) : Bool :=
  (decide (0x310 ≤ p) && decide (p ≤ 0x314)) || decide (p = 0x330) || (decide (0x2D4 ≤ p) && decide (p ≤ 0x2D6))

/-- SAUX.IP. -/
def Cr.ip (c : Cr) : Bool := bit c.saux 63

/-- Whether a starting trigger fails its start checks (R282, R283, R249). -/
def strBad (c : Cr) (p : Nat) : Bool :=
  let x := c.saux
  let n := c.scnt.toNat
  let sl := n / 2 ^ 8 % 2 ^ 8
  let dl := n % 2 ^ 8
  match p with
  | 0x330 => decide (fld x 58 48 ≠ 0)
  | 0x2D4 => decide (2 ^ 16 ≤ n) || decide (fld x 62 0 ≠ 0) || decide (sl = 0 ∨ 63 < sl ∨ dl = 0 ∨ 32 < dl)
  | 0x2D5 => decide (2 ^ 16 ≤ n) || decide (fld x 62 0 ≠ 0) || decide (sl = 0 ∨ 32 < sl ∨ dl = 0 ∨ 63 < dl)
  | 0x2D6 => decide (2 ^ 16 ≤ n) || decide (fld x 62 0 ≠ 0) || decide (sl = 0 ∨ 32 < sl ∨ dl = 0 ∨ 32 < dl)
  | _ => decide (2 ^ 20 ≤ n) || decide (fld x 62 60 ≠ 0) || (decide (p ≠ 0x313) && decide (fld x 39 8 ≠ 0)) ||
      (decide (p = 0x310 ∨ p = 0x311) && decide (fld x 7 0 ≠ 0))

/-- The string state as a start sets it (R281, R282). -/
def Cr.strStart (c : Cr) (p : Nat) : Cr :=
  match p with
  | 0x330 => { c with scnt := 0, saux := setBit (setFld c.saux 62 59 0) 63 true }
  | 0x2D4 | 0x2D5 | 0x2D6 => { c with saux := setBit c.saux 63 true }
  | _ => { c with saux := setBit (setFld c.saux 59 40 c.scnt.toNat) 63 true }

/-- The string state before an operation goes on: started when IP is 0, or the exception (R281, R283). -/
def State.strBegin (s : State) (e p fa : Nat) : Except Halt State :=
  let c := (s.eng e).cr
  if c.ip then .ok s
  else if strBad c p then .error (.exc { cls := xReserved, faddr := fa })
  else .ok (s.modEng e fun g => { g with cr := g.cr.strStart p })

/-- A VA with its offset advanced within its bank (R280). -/
def advance (va : BitVec 48) (n : Nat) : BitVec 48 :=
  BitVec.ofNat 48 (va.toNat / 2 ^ 32 * 2 ^ 32 + (va.toNat + n) % 2 ^ 32)

/-- Bank and offset of a string address. -/
def bankOf (va : BitVec 48) : Nat := va.toNat / 2 ^ 32
/-- Offset of a string address. -/
def offOf (va : BitVec 48) : Nat := va.toNat % 2 ^ 32

/-- One byte of a checked access. -/
def Place.byte (p : Place) (i : Nat) : Place :=
  match p with
  | .scratch o => .scratch (o + i)
  | .parts l => .parts (l.filterMap fun q =>
      if q.idx ≤ i && i < q.idx + q.len then some ⟨0, 1, q.va + (i - q.idx), q.pa + (i - q.idx), q.leaf⟩ else none)

/-- The state an iteration leaves when it faults: nothing of it is done on its engine or in memory, but the fills it made, the
reads it registered and the memory errors it recorded stay (R84, R88, R290). -/
def State.keepMicro (s0 s1 : State) (e : Nat) : State :=
  let g := s0.eng e
  let m := (s1.eng e).mem
  { (s1.setEng e { g with mem := { g.mem with itlb := m.itlb, dtlb := m.dtlb } }) with
    mem := { s0.mem with mcs := s1.mem.mcs } }

/-- What an iteration gives: the state, and at the end of the pass the result and the value of P. -/
abbrev Iter := State × Except Halt (State × Option (Tally × Bool))

/-- A load of one byte of a checked place. -/
def State.load1 (s : State) (e : Nat) (p : Place) (i : Nat) : Except Halt (State × Byte) :=
  match s.load e (p.byte i) 1 with
  | .error h => .error h
  | .ok (s, b) => .ok (s, b.headD 0)

/-- One byte of a checked place as the engine sees it now, beside the access that its iteration has made (R87, R295). -/
def State.look (s : State) (e : Nat) (p : Place) (i : Nat) : Byte :=
  match p with
  | .scratch o => readByte (s.eng e).mem.scratch (o + i)
  | .parts l => match l.find? fun q => decide (q.idx ≤ i) && decide (i < q.idx + q.len) with
    | none => 0
    | some q =>
      let a := q.pa + (i - q.idx)
      match bit q.leaf 9, (s.eng e).att with
      | true, some t => if t.peek then s.snapByte t.snap a else (getByte t.whey a).getD (s.stagedByte a)
      | _, _ => s.ownByte e a

/-- One byte checked and loaded. -/
def State.read1 (s : State) (e : Nat) (ue : List Nat) (bank off : Nat) : State × Except Halt (State × Byte) :=
  match s.access e ue (s.ctx e) .load bank (off % 2 ^ 32) 1 1 with
  | (s, .error h) => (s, .error h)
  | (s, .ok p) => (s, s.load1 e p 0)

/-- One byte checked and stored. -/
def State.write1 (s : State) (e : Nat) (ue : List Nat) (bank off : Nat) (b : Byte) : State × Except Halt State :=
  match s.access e ue (s.ctx e) .store bank (off % 2 ^ 32) 1 1 with
  | (s, .error h) => (s, .error h)
  | (s, .ok p) => (s, s.put e p [b])

/-! ### ST (R285 to R287) -/

/-- The bytes of an iteration in ascending order (R295), its reads made as a whole before (R287): i the next position; the
answer is where cmp or scan ended. -/
def State.stBytes (e : Nat) (ue : List Nat) (kind op : Nat) (x : W64) (src dst : Option Place) (k : Nat) :
    Nat → State → State × Except Halt (State × Option (Nat × Nat))
  | 0, s => (s, .ok (s, none))
  | f + 1, s =>
    let i := k - (f + 1)
    let a := src.elim 0 fun p => s.look e p i
    match kind with
    | 1 =>
      let b := dst.elim 0 fun p => s.look e p i
      if a = b then State.stBytes e ue kind op x src dst k f s
      else (s, .ok (s, some (i, if a.toNat < b.toNat then 1 else 2)))
    | 2 =>
      if (a.toNat = fld x 7 0) != decide (op / 16 % 2 = 1) then (s, .ok (s, some (i, 0)))
      else State.stBytes e ue kind op x src dst k f s
    | _ =>
      let tbl : State × Except Halt (State × Byte) :=
        if kind = 3 then
          let va := fld x 39 0 * 2 ^ 8 + a.toNat
          s.read1 e ue (va / 2 ^ 32) (va % 2 ^ 32)
        else (s, .ok (s, if kind = 4 then BitVec.ofNat 8 (fld x 7 0) else a))
      match tbl with
      | (s, .error h) => (s, .error h)
      | (_, .ok (s, b)) => match dst with
        | none => (s, .ok (s, none))
        | some p => match s.put e (p.byte i) [b] with
          | .error h => (s, .error h)
          | .ok s => State.stBytes e ue kind op x src dst k f s

/-- The bytes that an iteration reads, read as a whole: every line registered (R287, R118). -/
def State.readAll (s : State) (e : Nat) (p : Option Place) (k : Nat) : Except Halt State :=
  match p with
  | none => .ok s
  | some p => match s.load e p k with
    | .error h => .error h
    | .ok (s, _) => .ok s

/-- The string state and result of an ST pass that ends (R285, R286). -/
def State.stEnd (s : State) (e kind k0 : Nat) (hit : Option (Nat × Nat)) : State × Option (Tally × Bool) :=
  let c := (s.eng e).cr
  let len0 := fld c.saux 59 40
  let rest := c.scnt.toNat - k0
  let setc (f : Cr → Cr) := s.modEng e fun g => { g with cr := f g.cr }
  let adv := advance c.ssrc c.scnt.toNat
  let advd := advance c.sdst c.scnt.toNat
  let len32 : BitVec 32 := BitVec.ofNat 32 len0
  match kind with
  | 0 | 3 => (setc fun c => { c with ssrc := adv, sdst := advd, scnt := len32 }, some (0, false))
  | 1 =>
    let r : Tally := match hit with
      | some (i, w) => BitVec.ofNat 96 ((len0 - c.scnt.toNat + i + 1) * 2 ^ 32 + w)
      | none => 0
    (setc fun c => { c with ssrc := adv, sdst := advd, scnt := len32 }, some (r, hit.isSome))
  | 2 => match hit with
    | some (i, _) =>
      (setc fun c => { c with ssrc := advance c.ssrc (i + 1), scnt := BitVec.ofNat 32 (c.scnt.toNat - (i + 1)) },
        some (BitVec.ofNat 96 (2 ^ 32 + offOf (advance c.ssrc i)), true))
    | none => (setc fun c => { c with ssrc := advance c.ssrc k0, scnt := BitVec.ofNat 32 rest }, some (0, false))
  | _ => (setc fun c => { c with sdst := advd, scnt := len32 }, some (0, false))

/-- One iteration of an ST operation by index: 0 move, 1 cmp, 2 scan, 3 xlat, 4 fill (R287). -/
def State.stIter (s : State) (e : Nat) (ue : List Nat) (kind op : Nat) : Iter :=
  let s := s.sbDrain e
  let c := (s.eng e).cr
  let n := c.scnt.toNat
  let room (va : BitVec 48) := 16 - offOf va % 16
  let usesSrc := decide (kind ≠ 4)
  let usesDst := decide (kind ≠ 2)
  let k := min n (min (if usesSrc then room c.ssrc else n) (if usesDst then room c.sdst else n))
  if k = 0 then
    let (s, r) := s.stEnd e kind 0 none
    (s, .ok (s, r))
  else
    let chk (s : State) (on : Bool) (acc : Acc) (va : BitVec 48) : State × Except Halt (Option Place) :=
      if on then match s.access e ue (s.ctx e) acc (bankOf va) (offOf va) k 1 with
        | (s, .error h) => (s, .error h)
        | (s, .ok p) => (s, .ok (some p))
      else (s, .ok none)
    match chk s usesSrc .load c.ssrc with
    | (s, .error h) => (s, .error h)
    | (s, .ok src) => match chk s usesDst (if kind = 1 then .load else .store) c.sdst with
      | (s, .error h) => (s, .error h)
      | (s0, .ok dst) => match s0.readAll e src k with
        | .error h => (s0, .error h)
        | .ok s1 => match s1.readAll e (if kind = 1 then dst else none) k with
          | .error h => (s0.keepMicro s1 e, .error h)
          | .ok s1 => match State.stBytes e ue kind op c.saux src dst k k s1 with
            | (s, .error h) => (s0.keepMicro s e, .error h)
            | (_, .ok (s, hit)) =>
              if hit.isSome || k = n then
                let (s, r) := s.stEnd e kind k hit
                (s, .ok (s, r))
              else
                let s := s.modEng e fun g => { g with cr := { g.cr with
                  ssrc := if usesSrc then advance g.cr.ssrc k else g.cr.ssrc
                  sdst := if usesDst then advance g.cr.sdst k else g.cr.sdst
                  scnt := BitVec.ofNat 32 (n - k) } }
                (s, .ok (s, none))

/-! ### ED (R289, R297 to R300) -/

/-- An edit under way: the state and what its registers hold (R282). -/
structure EdRun where
  s : State
  spos : Nat
  dign : Nat
  sig : Bool
  neg : Bool
  zro : Bool
  lfl : Bool
  dst : BitVec 48
  made : Nat := 0

/-- The edit registers written back. -/
def EdRun.store (r : EdRun) (e : Nat) : State :=
  r.s.modEng e fun g => { g with cr := { g.cr with
    sdst := r.dst, scnt := BitVec.ofNat 32 (r.dign * 2 ^ 16 + r.spos)
    saux := setBit (setBit (setBit (setBit g.cr.saux 62 r.sig) 61 r.neg) 60 r.zro) 59 r.lfl } }

/-- The state an edit leaves (R286), with its result. -/
def EdRun.finish (r : EdRun) (e n code : Nat) : State × Option (Tally × Bool) :=
  (r.s.modEng e fun g => { g with cr := { g.cr with
    ssrc := advance g.cr.ssrc n, sdst := r.dst, scnt := 0, saux := setFld g.cr.saux 62 59 0 } },
   some (BitVec.ofNat 96 code, r.neg))

/-- One byte produced (R297). -/
def EdRun.make (r : EdRun) (e : Nat) (ue : List Nat) (fill b : Byte) : State × Except Halt EdRun :=
  match r.s.write1 e ue (bankOf r.dst) (offOf r.dst) b with
  | (s, .error h) => (s, .error h)
  | (_, .ok s) =>
    (s, .ok { r with s := s, dst := advance r.dst 1, lfl := decide (b = fill), made := r.made + 1 })

/-- A digit select (R297, R298): code 1 DIG, 2 DIGS, 3 DIGF. The byte that a floating symbol may rewrite is checked as one
that is read and written, whether it is rewritten or not (R290, R322). DIGN is held once it is past the source's 2n - 1
digits, so that no further select brings it back there; for n 32 its field of six bits holds no more than 63 (log 16). -/
def EdRun.digit (r : EdRun) (e : Nat) (ue : List Nat) (n code : Nat) (fill float : Byte) (blank : Bool) :
    State × Except Halt EdRun :=
  let c := (r.s.eng e).cr
  let got : State × Except Halt (State × Byte) :=
    if r.dign < 2 * n - 1 then r.s.read1 e ue (bankOf c.ssrc) (offOf c.ssrc + r.dign / 2) else (r.s, .ok (r.s, 0))
  match got with
  | (s, .error h) => (s, .error h)
  | (_, .ok (s, b)) =>
    let d0 := if r.dign % 2 = 0 then b.toNat / 16 else b.toNat % 16
    let d := if 9 < d0 then 0 else d0
    let shows := code = 3 || r.sig || decide (d ≠ 0)
    let ch : Byte := if shows && !blank then BitVec.ofNat 8 (0x30 + d) else fill
    let may := !r.sig && decide (float ≠ 0) && r.lfl && !blank
    let pre : State × Except Halt State :=
      if !may then (s, .ok s)
      else match s.access e ue (s.ctx e) .rmw (bankOf r.dst) ((offOf r.dst + 2 ^ 32 - 1) % 2 ^ 32) 1 1 with
        | (s, .error h) => (s, .error h)
        | (s, .ok p) => if shows then (s, s.put e p [float]) else (s, .ok s)
    match pre with
    | (s, .error h) => (s, .error h)
    | (_, .ok s) => ({ r with
        s := s, dign := if r.dign < 2 * n then min (r.dign + 1) 63 else r.dign, sig := r.sig || shows || decide (code = 2) }).make e ue fill ch

/-- Stencil characters until the iteration ends (R289): the run and, at the end of the edit, ED.r. The header is read again
for each character, so that iterations never change the result (R295). -/
def EdRun.loop (e : Nat) (ue : List Nat) (hp : Place) (op : Nat) :
    Nat → EdRun → State × Except Halt (EdRun × Option Nat)
  | 0, r => (r.s, .ok (r, none))
  | f + 1, r =>
    let c := (r.s.eng e).cr
    let at_ (i : Nat) := (fld c.saux 47 32, fld c.saux 31 0 + i)
    let hdr := (List.range 4).map (r.s.look e hp)
    let n := (hdr.headD 0).toNat
    let from_ := r.spos
    let fill := hdr.getD 1 0
    let blank := decide (op / 16 % 2 = 1) && r.zro
    let sign : Nat := if r.zro then 0 else if r.neg then 1 else 2
    if 65535 ≤ r.spos then (r.s, .ok (r, some 3))
    else match r.s.read1 e ue (at_ r.spos).1 (at_ r.spos).2 with
    | (s, .error h) => (s, .error h)
    | (_, .ok (s, ch)) =>
      let r := { r with s := s, spos := r.spos + 1 }
      let k := ch.toNat
      let one (b : Byte) := r.make e ue fill (if blank then fill else b)
      let two (g : Byte → Byte) : State × Except Halt EdRun :=
        match r.s.read1 e ue (at_ r.spos).1 (at_ r.spos).2 with
        | (s, .error h) => (s, .error h)
        | (_, .ok (s, b)) => ({ r with s := s, spos := r.spos + 1 }).make e ue fill (if blank then fill else g b)
      if k = 0 then (r.s, .ok (r, some (if 1 ≤ n && n ≤ 32 && r.dign = 2 * n - 1 then sign else 3)))
      else if 7 ≤ k && k < 0x20 then (r.s, .ok (r, some 3))
      else
        let step : State × Except Halt EdRun :=
          if k ≤ 3 then r.digit e ue n k fill (hdr.getD 3 0) blank
          else if k = 4 then one (if r.neg then hdr.getD 2 0 else fill)
          else if k = 5 then two fun b => if r.neg then b else fill
          else if k = 6 then two id
          else one (if r.sig then ch else fill)
        match step with
        | (s, .error h) => (s, .error h)
        | (_, .ok r) =>
          if 65535 ≤ r.spos then (r.s, .ok (r, some 3))
          else if 16 ≤ r.made || offOf r.dst % 16 = 0 || (at_ from_).2 / 16 ≠ (at_ r.spos).2 / 16 then (r.s, .ok (r, none))
          else EdRun.loop e ue hp op f r

/-- One iteration of an edit (R289, R299), of at most f stencil characters. -/
def State.edIter (s : State) (e : Nat) (ue : List Nat) (op : Nat) (f : Nat) : Iter :=
  let s := s.sbDrain e
  let c := (s.eng e).cr
  match s.access e ue (s.ctx e) .load (fld c.saux 47 32) (fld c.saux 31 0) 4 1 with
  | (s, .error h) => (s, .error h)
  | (s0, .ok pl) => match s0.load e pl 4 with
    | .error h => (s0, .error h)
    | .ok (s, hdr) =>
      let n := (hdr.headD 0).toNat
      let spos := c.scnt.toNat % 2 ^ 16
      let r : EdRun := {
        s := s, spos := spos, dign := c.scnt.toNat / 2 ^ 16 % 64, sig := bit c.saux 62, neg := bit c.saux 61,
        zro := bit c.saux 60, lfl := bit c.saux 59, dst := c.sdst }
      if spos = 0 then
        if n = 0 || 32 < n then
          let x := r.finish e n 3
          (s, .ok x)
        else match s.access e ue (s.ctx e) .load (bankOf c.ssrc) (offOf c.ssrc) n 1 with
          | (s1, .error h) => (s0.keepMicro s1 e, .error h)
          | (s1, .ok ps) => match s1.load e ps n with
            | .error h => (s0.keepMicro s1 e, .error h)
            | .ok (s, src) =>
              let r := { r with s := s }
              if packedOk src then
                let v := packedVal src
                let s := ({ r with
                  spos := 4, neg := decide (v < 0), zro := decide (v = 0) }).store e
                (s, .ok (s, none))
              else
                let x := r.finish e n 4
                (s, .ok x)
      else match EdRun.loop e ue pl op f r with
        | (s, .error h) => (s0.keepMicro s e, .error h)
        | (_, .ok (r, some code)) => let x := r.finish e (r.s.look e pl 0).toNat code; (x.1, .ok x)
        | (_, .ok (r, none)) => let s := r.store e; (s, .ok (s, none))

/-! ### CV pack, unpk, mdec (R249, R288, R296) -/

/-- A place cut to its first m bytes. -/
def Place.cut (p : Place) (m : Nat) : Place :=
  match p with
  | .scratch o => .scratch o
  | .parts l => .parts ((l.filter fun q => decide (q.idx < m)).map fun q => { q with len := min q.len (m - q.idx) })

/-- The single iteration of pack, unpk or mdec; cut: how many of its bytes are written before a microword fails (R416). -/
def State.cvIter (s : State) (e slot fa : Nat) (ue : List Nat) (p op : Nat) (cut : Option Nat) : Iter :=
  let s := s.sbDrain e
  let c := (s.eng e).cr
  let sl := c.scnt.toNat / 2 ^ 8 % 2 ^ 8
  let dl := c.scnt.toNat % 2 ^ 8
  let mop := op % 8
  let reads := p = 0x2D6 && mop ≠ 0
  let acc : Acc := if !reads then .store else if mop = 3 then .load else .rmw
  match s.access e ue (s.ctx e) .load (bankOf c.ssrc) (offOf c.ssrc) sl 1 with
  | (s, .error h) => (s, .error h)
  | (s, .ok ps) => match s.access e ue (s.ctx e) acc (bankOf c.sdst) (offOf c.sdst) dl 1 with
    | (s, .error h) => (s, .error h)
    | (s0, .ok pd) => match s0.load e ps sl with
      | .error h => (s0, .error h)
      | .ok (s, src) => match (if reads then s.load e pd dl else .ok (s, [])) with
        | .error h => (s0.keepMicro s e, .error h)
        | .ok (s, dst) =>
          let r := match p with
            | 0x2D4 => cvPack src dl
            | 0x2D5 => cvUnpk src dl op
            | _ => cvMdec src (if reads then dst else List.replicate dl 0) op
          match s.settle e slot p 0x2C1 fa { cond := r.cond } id with
          | (_, .error h) => (s0.keepMicro s e, .error h)
          | (_, .ok act) =>
            let wrote : Except Halt State := match act.run s with
              | .error h => .error h
              | .ok s => match r.out with
                | some b => cut.elim (s.put e pd b) fun m => s.put e (pd.cut m) (b.take m)
                | none => .ok s
            match wrote with
            | .error h => (s0, .error h)
            | .ok s =>
              let s := s.modEng e fun g => { g with cr := { g.cr with
                ssrc := advance g.cr.ssrc sl
                sdst := if reads then g.cr.sdst else advance g.cr.sdst dl } }
              (s, .ok (s, some (r.r, false)))

/-- One iteration of a string-class trigger (R287 to R289). -/
def State.strIter (s : State) (e slot fa : Nat) (ue : List Nat) (p op : Nat) : Iter :=
  if p = 0x330 then s.edIter e ue op 64
  else if 0x310 ≤ p then s.stIter e ue (p - 0x310) op
  else s.cvIter e slot fa ue p op none

/-- Memory, the store buffer that the iteration has written out, and the scratch store as an iteration leaves them whose
microwords fail after it wrote n bytes (R416). -/
def State.partIter (s : State) (e : Nat) (ue : List Nat) (p op n : Nat) : State :=
  let r : Iter :=
    if n = 0 then (s, .ok (s, none))
    else if p = 0x330 then s.edIter e ue op n
    else if 0x310 ≤ p then
      (s.modEng e fun g => { g with cr := { g.cr with scnt := BitVec.ofNat 32 (min n g.cr.scnt.toNat) } }).stIter e ue
        (p - 0x310) op
    else s.cvIter e 3 0 ue p op (some n)
  match r.2 with
  | .error _ => s
  | .ok (t, _) =>
    { (s.modEng e fun g => { g with mem := { g.mem with
        scratch := (t.eng e).mem.scratch, sbuf := (t.eng e).mem.sbuf } }) with mem := t.mem }

/-- The words of one iteration (R404, R407 to R411, R416). A parity error that the row brings strikes an open word: of the
mask ROM, or of patch RAM where a match register is in force; how many bytes the words before it wrote is open too (log 19).
While no match register is in force the ROM's words are good and which of them comes next shows nowhere. -/
def State.rnIter (s : State) (e : Nat) (v : Env) (run : StrRun) : MicroOut :=
  let rn := (s.eng e).rn
  let n := Config.freeNat (s.fresh + 1) % 256
  if v.parity = some 3 then .fail 3 (Config.freeNat s.fresh % 4096) n
  else if !rn.live then .next { at_ := rnEntry run.port.toNat run.opmod.toNat true }
  else if v.parity = some 2 then .fail 2 (4096 + Config.freeNat s.fresh % 512) n
  else rn.run true s.fresh 4096 true run.micro

/-- Where Rennet stands when an iteration has ended: at the boundary, or at the resume entry when its words reached END. -/
def MicroOut.micro (o : MicroOut) (p op : Nat) : Micro :=
  match o with
  | .next m => { at_ := m.at_, stack := m.stack, cnt := m.cnt }
  | _ => { at_ := rnEntry p op true }

/-- What the patch words of an iteration do beside (R406): STATE sets and clears IP, SIG, NEG, ZRO and LFL, FLAGS sets AFLAG
bits. -/
def MicroOut.acts (o : MicroOut) (g : Eng) : Eng :=
  let act (m : Micro) : Eng :=
    let k (n : Nat) : W64 := BitVec.ofNat 64 (n * 2 ^ 59)
    if m.setBits = 0 && m.clrBits = 0 && m.flags = 0 then g
    else { g with cr := { g.cr with
      saux := (g.cr.saux ||| k m.setBits) &&& ~~~ k m.clrBits, aflag := g.cr.aflag ||| BitVec.ofNat 64 m.flags } }
  match o with
  | .next m => act m
  | .done m _ => act m
  | .fail _ _ _ => g

/-- The result of an iteration: an END in patch RAM completes the operation, whatever the ROM's words would have done
further, with the result that its RESULT writes, which is open (R407, log 19). -/
def MicroOut.result (o : MicroOut) (fresh : Nat) (r : Option (Tally × Bool)) : Option (Tally × Bool) :=
  match o with
  | .done _ (some w) => some (Config.microResult fresh (resultOf w))
  | _ => r

/-- The result port and guard of a completed operation (R285, R300, R249). -/
def Eng.strResult (g : Eng) (p op : Nat) (r : Tally) (pv : Bool) : Eng :=
  let g := g.setPorts g.hset fun q =>
    if p = 0x330 then { q with edr := r }
    else if 0x310 ≤ p then { q with str := r }
    else { q with cvr := ⟨r.setWidth 128, false⟩ }
  let i := guardField p op
  if i = 0 then g else { g with p := if pv then g.p ||| BitVec.ofNat 16 (2 ^ i) else g.p &&& ~~~ BitVec.ofNat 16 (2 ^ i) }

end Sys2Proof.Machine
end

