-- ==== Sys2Proof/Machine/Rind.lean ====
section
/-! DEFINITION. Rind: the issue of a bundle (R170 to R206), branches, the block repeat, PX and SY triggers, and one
meaning for each trigger row. -/

namespace Sys2Proof.Machine

/-! ### Moves -/

/-- A move of an executing slot with its value read (R180 step 1): src the source port, none for an immediate. -/
structure Mv where
  slot : Nat
  dst : Nat
  op : Nat
  src : Option Nat
  val : BitVec 128
  pair : Bool
  deriving DecidableEq, Repr

/-- Whether a destination takes a DF operand (R189, R248, R259). -/
def takesPair (p : Nat) : Bool := p = 0x2A0 || p = 0x2A1 || (isTrig p && unitOf p = 0x15) || p = 0x2D3

/-- A tally register as one half of a pair. -/
def Eng.half (g : Eng) (i : Nat) : Nat := (g.t.getD i 0).toNat % 2 ^ 64

/-- A register or result port as a source (R179, R184). -/
def State.portVal (s : State) (e p : Nat) : Tally :=
  let g := s.eng e
  let q := g.ports
  if 0x10 ≤ p ∧ p < 0x20 then (if p = 0x10 || g.p.getLsbD (p - 0x10) then 1 else 0)
  else if isT p then g.t.getD (p - 0x20) 0
  else if 0x40 ≤ p ∧ p < 0x48 then (g.b.getD (p - 0x40) 0).setWidth 96
  else if isCr p then (s.crRead e (p - 0x100)).setWidth 96
  else match p with
  | 0x201 => q.alu0r.setWidth 96
  | 0x221 => q.alu1r.setWidth 96
  | 0x241 => q.dar
  | 0x261 => (landed q.prods g.nb).1
  | 0x262 => (landed q.prods g.nb).2
  | 0x281 => q.dq
  | 0x282 => q.drm
  | 0x2A2 => q.dfr.val.setWidth 96
  | 0x2C1 => q.cvr.val.setWidth 96
  | 0x2E1 => q.ckr
  | 0x301 => q.str
  | 0x321 => q.edr
  | 0x341 => q.ls0r
  | 0x361 => q.ls1r
  | _ => 0

/-- The moves of the executing slots (R174, R177, R189). A slot whose guard is false and that names a decimal128 result port
and an even Tn stands too where another slot names Tn+1, which R181 refuses whatever the guards: Mv.pairBad does. -/
def State.moves (s : State) (e : Nat) (b : Bundle) : List Mv :=
  let g := s.eng e
  (slotsOf b).filterMap fun (i, x) =>
    if !x.runs g.p then
      if !x.short && ((x.sport = 0x2A2 && g.ports.dfr.wide) || (x.sport = 0x2C1 && g.ports.cvr.wide)) && isT x.dst &&
          decide (x.dst % 2 = 0) && (slotsOf b).any (fun q => decide (q.2.dst = x.dst + 1)) then
        some ⟨i, x.dst, x.op, some x.sport, 0, true⟩
      else none
    else
      let dec := if isT x.dst then decide (x.op = 1) else isDec x.dst
      if x.short then some ⟨i, x.dst, x.op, none, (shortImm x.src dec).setWidth 128, false⟩
      else
        let p := x.sport
        if p = 0x048 then some ⟨i, x.dst, x.op, none, (longImm b dec).setWidth 128, false⟩
        else if takesPair x.dst && isT p && p % 2 = 0 then
          some ⟨i, x.dst, x.op, some p, BitVec.ofNat 128 (g.half (p - 0x20) * 2 ^ 64 + g.half (p - 0x1F)), true⟩
        else if (p = 0x2A2 && g.ports.dfr.wide) || (p = 0x2C1 && g.ports.cvr.wide) then
          some ⟨i, x.dst, x.op, some p, if p = 0x2A2 then g.ports.dfr.val else g.ports.cvr.val, true⟩
        else some ⟨i, x.dst, x.op, some p, (s.portVal e p).setWidth 128, false⟩

/-- Whether a move of a decimal128 result does not name an even tally register, or another slot names its upper half
(R189, R248). -/
def Mv.pairBad (m : Mv) (sl : List (Nat × Slot)) : Bool :=
  m.pair && (m.src = some 0x2A2 || m.src = some 0x2C1) &&
    (!(isT m.dst && decide (m.dst % 2 = 0)) || sl.any fun p => decide (p.2.dst = m.dst + 1))

/-- The operand latches after the moves into operand ports (R180 step 2, R259). LS0.o and LS1.o keep all 96 bits, of which
stt stores 12 bytes (R188) and every other store the low ones (R179, log 16). -/
def latchMoves (q : Ports) (l : List Mv) : Ports :=
  l.foldl (fun q m =>
    let w : W64 := m.val.setWidth 64
    let t : Tally := m.val.setWidth 96
    match m.dst with
    | 0x200 => { q with alu0o := w }
    | 0x220 => { q with alu1o := w }
    | 0x240 => { q with dao := t }
    | 0x260 => { q with dmo := t }
    | 0x280 => { q with ddo := t }
    | 0x2A0 => { q with dfo := latchOf m.val m.pair }
    | 0x2A1 => { q with dfo2 := latchOf m.val m.pair }
    | 0x2C0 => { q with cvo := w }
    | 0x340 => { q with ls0o := t }
    | 0x360 => { q with ls1o := t }
    | _ => q) q

/-- Moves into tally, guard and palette registers (R180 step 4, R140, R189). -/
def Eng.regMoves (g : Eng) (l : List Mv) : Eng :=
  l.foldl (fun g m =>
    if isT m.dst then
      let i := m.dst - 0x20
      if m.pair then { g with
        t := (g.t.set i (((m.val >>> (64 : Nat)).setWidth 64).setWidth 96)).set (i + 1) ((m.val.setWidth 64).setWidth 96) }
      else { g with t := g.t.set i (m.val.setWidth 96) }
    else if 0x11 ≤ m.dst ∧ m.dst < 0x20 then
      let k := BitVec.ofNat 16 (2 ^ (m.dst - 0x10))
      { g with p := if m.val.getLsbD 0 then g.p ||| k else g.p &&& ~~~ k }
    else if 0x40 ≤ m.dst ∧ m.dst < 0x48 then { g with b := g.b.set (m.dst - 0x40) (m.val.setWidth 16) }
    else g) g

/-- A guard written by a trigger (R187, R242). -/
def Eng.guardPut (g : Eng) (i : Nat) (v : Bool) : Eng :=
  if i = 0 then g
  else { g with p := if v then g.p ||| BitVec.ofNat 16 (2 ^ i) else g.p &&& ~~~ BitVec.ofNat 16 (2 ^ i) }

/-! ### BR (R192 to R196) -/

/-- A return record (R194). -/
def retRecord (bank off : Nat) : List Byte := [0, 0] ++ toBytes 2 bank ++ toBytes 4 off

/-- A call's push at SB:SP − 8, in Salvage on the Salvage stack (R194, R224, R400). -/
def State.pushRec (s : State) (e : Nat) (v : Env) (fa off : Nat) : Prep Act :=
  let c := (s.eng e).cr
  let sp := c.sp - 8
  let rec_ := retRecord c.esw.cb.toNat off
  let set (g : Eng) : Eng := { g with cr := { g.cr with sp := sp } }
  if c.esw.salv then
    if 0x1000 ≤ sp.toNat ∧ sp.toNat + 8 ≤ 0x2000 then
      (s, .ok { run := fun s => .ok (s.modEng e fun g =>
        set { g with mem := { g.mem with sram := writeBytes g.mem.sram sp.toNat rec_ } }) })
    else (s, .error (.exc { cls := xReserved, faddr := fa }))
  else match s.storeAct e v (s.ctx e) c.esw.sb.toNat sp.toNat 8 1 (ofBytes rec_) with
    | (s, .error h) => (s, .error h)
    | (s, .ok a) => (s, .ok { run := fun s => match a.run s with
        | .error h => .error h
        | .ok s => .ok (s.modEng e set) })

/-- A return's pop at SB:SP (R195, R224): the bytes of the record and the load's act. -/
def State.popRec (s : State) (e : Nat) (v : Env) (fa : Nat) : Prep (Act × List Byte) :=
  let c := (s.eng e).cr
  let set (g : Eng) : Eng := { g with cr := { g.cr with sp := c.sp + 8 } }
  if c.esw.salv then
    if 0x1000 ≤ c.sp.toNat ∧ c.sp.toNat + 8 ≤ 0x2000 then
      (s, .ok ({ run := fun s => .ok (s.modEng e set) }, readBytes (s.eng e).mem.sram c.sp.toNat 8))
    else (s, .error (.exc { cls := xReserved, faddr := fa }))
  else match s.access e (ueLines v) (s.ctx e) .load c.esw.sb.toNat c.sp.toNat 8 1 with
    | (s, .error h) => (s, .error h)
    | (s, .ok pl) => match s.load e pl 8 with
      | .error h => (s, .error h)
      | .ok (_, b) =>
        (s, .ok ({
          run := fun s => match s.load e pl 8 with
            | .error h => .error h
            | .ok (s, _) => .ok (s.modEng e set)
          waits := if s.waits e v pl then [0] else []
          early := if s.waits e v pl then s.earlyOf e pl else [] }, b))

/-- Whether a branch target may not be taken: unaligned (R193, R195), or in Salvage outside the Salvage code (R400). -/
def targetBad (salv : Bool) (off : Nat) : Bool :=
  decide (off % 16 ≠ 0) || (salv && (decide (off < 0x2000) || decide (0x4000 ≤ off)))

/-- A BR trigger of an executing slot. -/
def State.brAct (s : State) (e : Nat) (v : Env) (m : Mv) : Prep Act :=
  let g := s.eng e
  let x := g.cr.esw
  let fa := slotPort m.slot m.dst
  let t := m.val.toNat
  let rel := decide (m.op % 2 = 1)
  let near := if rel then (g.pc.toNat + 16 * (t % 2 ^ 32)) % 2 ^ 32 else t % 2 ^ 32
  let farBank := t / 2 ^ 32 % 2 ^ 16
  let bad : Prep Act := (s, .error (.exc { cls := xReserved, faddr := fa }))
  let next2 := (g.pc + 32).toNat
  match m.dst % 16 with
  | 0 => if targetBad x.salv near then bad else (s, .ok { branch := some (x.cb.toNat, near, true) })
  | 1 =>
    if targetBad x.salv near then bad
    else match s.pushRec e v fa next2 with
      | (s, .error h) => (s, .error h)
      | (s, .ok a) => (s, .ok { a with branch := some (x.cb.toNat, near, false) })
  | 2 => match s.popRec e v fa with
    | (s, .error h) => (s, .error h)
    | (s, .ok (a, b)) =>
      if a.waits.isEmpty && (numAt b 0 2 ≠ 0 || targetBad x.salv (numAt b 4 4)) then
        ((match a.run s with | .ok r => s.keepReads r | .error _ => s), .error (.exc { cls := xReserved, faddr := fa }))
      else (s, .ok { a with branch := some (numAt b 2 2, numAt b 4 4, false) })
  | 3 =>
    if x.salv || targetBad false (t % 2 ^ 32) then bad
    else (s, .ok { branch := some (farBank, t % 2 ^ 32, true) })
  | 4 =>
    if x.salv || targetBad false (t % 2 ^ 32) then bad
    else match s.pushRec e v fa next2 with
      | (s, .error h) => (s, .error h)
      | (s, .ok a) => (s, .ok { a with branch := some (farBank, t % 2 ^ 32, false) })
  | _ => (s, .ok { late := some fun s => s.retx e (ueLines v) })

/-! ### RP (R198, R199) -/

/-- A line put into the L1 instruction cache, 512 lines of it (R157); which one it replaces is open (log 4). -/
def cachePut (l : List (Nat × List Byte)) (pick n : Nat) (b : List Byte) : List (Nat × List Byte) :=
  if l.length < 512 then l ++ [(n, b)] else l.set (pick % 512) (n, b)

/-- The bytes that a part of a fetch reads (R341, R342): those of the line held, or the line as the vat sees it, which a
page of type normal then has held. -/
def State.codePart (s : State) (e : Nat) (q : Part) : State × List Byte :=
  let n := q.pa / 64
  match (s.eng e).mem.icache.find? fun c => c.1 = n with
  | some c => (s, slice c.2 (q.pa % 64) q.len)
  | none =>
    let s := s.learn (vatOf e)
    let b := s.seenN (vatOf e) (64 * n) 64
    (if fld q.leaf 61 60 ≠ 0 then s
     else (s.modEng e fun g => { g with mem := { g.mem with
       icache := cachePut g.mem.icache (Config.freeNat s.fresh) n b } }).draw, slice b (q.pa % 64) q.len)

/-- The parts of a fetch read in order. -/
def State.codeParts (e : Nat) : List Part → State → State × List Byte
  | [], s => (s, [])
  | q :: l, s =>
    let (s, a) := s.codePart e q
    let (s, b) := State.codeParts e l s
    (s, a ++ b)

/-- n instruction bytes fetched at an offset of the code bank (R304, R322, R342), in Salvage of engine-local SRAM (R400). An
offset whose low four bits are not 0 is fetched as it is (log 42). -/
def State.fetchAt (s : State) (e : Nat) (ue : List Nat) (off n : Nat) : Prep (List Byte) :=
  let g := s.eng e
  if g.cr.esw.salv then
    if 0x2000 ≤ off ∧ off < 0x4000 then (s, .ok (readBytes g.mem.sram off n))
    else (s, .error (.exc { cls := xReserved, faddr := slotPort 3 0 }))
  else match s.access e ue (s.ctx e) .fetch g.cr.esw.cb.toNat off n 1 with
    | (s, .error h) => (s, .error h)
    | (s, .ok (.scratch _)) => (s, .error .refuse)
    | (s, .ok (.parts l)) =>
      let (s, b) := State.codeParts e l s
      (s, .ok b)

/-- The fetch of the bundle at the program address. -/
def State.fetch (s : State) (e : Nat) (ue : List Nat) (n : Nat) : Prep (List Byte) := s.fetchAt e ue (s.eng e).pc.toNat n

/-- A bundle of a loop body fetched and decoded (R198 step 1). -/
def State.fetchBundle (s : State) (e : Nat) (ue : List Nat) (off : Nat) : Prep Bundle :=
  match s.fetchAt e ue off 16 with
  | (s, .error h) => (s, .error h)
  | (s, .ok l) =>
    let b : Bundle := BitVec.ofNat 128 (ofBytes l)
    match decodeCheck b false with
    | some x => (s, .error (.exc x))
    | none => (s, .ok b)

/-- L body bundles fetched and decoded. -/
def State.fetchBody (e : Nat) (ue : List Nat) : Nat → Nat → State → Prep (List Bundle)
  | 0, _, s => (s, .ok [])
  | n + 1, off, s => match s.fetchBundle e ue off with
    | (s, .error h) => (s, .error h)
    | (s, .ok b) => match State.fetchBody e ue n ((off + 16) % 2 ^ 32) s with
      | (s, .error h) => (s, .error h)
      | (s, .ok l) => (s, .ok (b :: l))

/-- Whether a body is no repeat target (R199), after the check of ESW.LA. -/
def bodyBad (l : List Bundle) : Bool :=
  let dsts (b : Bundle) := (slotsOf b).map fun p => p.2.dst
  let all := (l.map dsts).flatten
  let br (b : Bundle) := (dsts b).any fun d => isTrig d && decide (unitOf d = 0x1C)
  all.any (fun d => decide (0x109 ≤ d) && decide (d ≤ 0x10B)) || all.contains 0x3B0 ||
    (l.drop (l.length - 2)).any br ||
    (all.any isStr && all.any fun d => decide (0x10C ≤ d) && decide (d ≤ 0x10F))

/-- RP.t.loop of an executing slot. -/
def State.rpAct (s : State) (e : Nat) (v : Env) (m : Mv) : Prep Act :=
  let g := s.eng e
  let n := m.op % 64 + 1
  let first := g.pc + 16
  let last := g.pc + BitVec.ofNat 32 (16 * n)
  let bad (s : State) : Prep Act := (s, .error (.exc { cls := xRepeat, faddr := slotPort m.slot m.dst }))
  if g.cr.esw.la then bad s
  else match State.fetchBody e (ueLines v) n first.toNat s with
    | (s, .error h) => (s, .error h)
    | (s, .ok l) =>
      if bodyBad l then bad s
      else if m.val.toNat % 2 ^ 32 = 0 then (s, .ok { skip := some (last + 16).toNat })
      else (s, .ok { run := fun s => .ok (s.modEng e fun g => { g with cr := { g.cr with
          ls := first, le := last, lc := m.val.setWidth 32, esw := { g.cr.esw with la := true } } }) })

/-! ### PX and SY (R202 to R205, R349 to R353) -/

/-- Whether a PX trigger of an executing slot is out of sequence or holds a reserved bit of t (R90, R202, R203). -/
def pxBad (tx : Nat) (i t : Nat) : Option Nat :=
  if i = 0 || i = 1 then
    if tx ≠ 0 then some xSequence else if t % 16 ≠ 0 then some xReserved else none
  else if tx = 0 || (i = 3 && tx = 2) then some xSequence
  else if i = 2 then
    let len := t / 2 ^ 32 % 2 ^ 11
    let off := t % 2 ^ 14
    if t % 2 ^ 64 / 2 ^ 43 ≠ 0 || t % 2 ^ 32 / 2 ^ 14 ≠ 0 || 1408 < len || 16384 < off + len then some xReserved else none
  else none

/-- A PX trigger of an executing slot. -/
def State.pxAct (s : State) (e : Nat) (m : Mv) : Prep Act :=
  let g := s.eng e
  let t := m.val.toNat
  let i := m.dst % 16
  match pxBad g.cr.esw.tx.toNat i t with
  | some cls => (s, .error (.exc { cls := cls, faddr := slotPort m.slot m.dst }))
  | none => match i with
    | 2 => (s, .ok { late := some fun s => (s, .ok (s.seal e (m.op % 4)
        (readBytes (s.eng e).mem.scratch (t % 2 ^ 14) (t / 2 ^ 32 % 2 ^ 11)))) })
    | 3 => (s, .ok { late := some fun s => (s, .ok (s.goSolo e)) })
    | _ => (s, .ok {})

/-- A SY trigger of an executing slot: it waits for busy divides, writes the store buffer out, and syncs (R205); syncm and
iflush wait until what the engine wrote and read is performed everywhere (R349, R351 to R353). -/
def State.syAct (s : State) (e : Nat) (m : Mv) : Prep Act :=
  let g := s.eng e
  if g.dd.isSome || g.df.isSome then (s, .error .stall)
  else match m.dst % 16 with
    | 0 => (s, .ok { run := fun s => .ok ((s.sbDrain e).syncEvent e) })
    | 1 => (s, .ok { run := fun s => .ok (((s.sbDrain e).landSeen e).syncEvent e) })
    | _ => (s, .ok { run := fun s => .ok (((s.sbDrain e).landSeen e).modEng e fun g =>
        { g with mem := { g.mem with icache := [] } }) })

/-! ### A bundle -/

/-- The checks of one move, and its act. -/
def State.prepMove (s : State) (e : Nat) (v : Env) (po : Ports) (sl : List (Nat × Slot)) (m : Mv) : Prep Act :=
  let fa := slotPort m.slot m.dst
  if m.pairBad sl then (s, .error (.exc { cls := xPort, faddr := fa }))
  else if isCr m.dst then
    match s.crCheck e (m.dst - 0x100) (m.val.setWidth 64) with
    | some cls => (s, .error (.exc { cls := cls, faddr := fa }))
    | none => (s, .ok {})
  else if !isTrig m.dst then (s, .ok {})
  else if isStr m.dst then
    match s.strBegin e m.dst fa with
    | .error h => (s, .error h)
    | .ok _ => (s, .ok {})
  else match unitOf m.dst with
  | 0x1C => s.brAct e v m
  | 0x1D => s.rpAct e v m
  | 0x1E => s.pxAct e m
  | 0x1F => s.syAct e m
  | _ => s.unitOp e v po m.slot fa m.dst m.op m.val m.pair

/-- The checks of every move, lowest slot first (R372). -/
def State.prepMoves (e : Nat) (v : Env) (po : Ports) (sl : List (Nat × Slot)) : List Mv → State → Prep (List Act)
  | [], s => (s, .ok [])
  | m :: l, s => match s.prepMove e v po sl m with
    | (s, .error h) => (s, .error h)
    | (s, .ok a) => match State.prepMoves e v po sl l s with
      | (s, .error h) => (s, .error h)
      | (s, .ok as) => (s, .ok (a :: as))

/-- The checks of a bundle in the order of R206 and R372: first those of the body of an RP.t.loop (order 8), then what only
execution finds, lowest slot first. -/
def State.prepAll (s : State) (e : Nat) (v : Env) (po : Ports) (sl : List (Nat × Slot)) (l : List Mv) : Prep (List Act) :=
  match l.find? fun m => isTrig m.dst && decide (unitOf m.dst = 0x1D) with
  | none => State.prepMoves e v po sl l s
  | some m => match s.rpAct e v m with
    | (s, .error h) => (s, .error h)
    | (_, .ok _) => State.prepMoves e v po sl l s

/-- The acts of the triggers in slot order. -/
def runActs : List Act → State → Except Halt State
  | [], s => .ok s
  | a :: l, s => match a.run s with
    | .error h => .error h
    | .ok s => runActs l s

/-- Where the engine continues after a bundle that has retired: the delay bundle's target, a taken branch, a skipped
body, or the next bundle under the loop-end rule (R192, R198 to R201). A bundle at LE with a taken branch counts LC down
too, and its delay bundle follows it (R192, R200, log 16). So does a delay bundle at LE, which goes on at the branch's target,
and a bundle of a callee in another bank at offset LE; beside a taken branch an RP.t.loop with count 0 skips nothing (log 42).
-/
def Eng.step (g : Eng) (as : List Act) : Eng :=
  let x := g.cr.esw
  match as.findSome? Act.branch, as.findSome? Act.skip with
  | some (bank, off, jump), _ =>
    let out := decide (bank ≠ x.cb.toNat) || decide (off < g.cr.ls.toNat) || decide (g.cr.le.toNat < off)
    let g' := g.after g.pc
    { g' with
      pc := g.pc + 16, bt := BitVec.ofNat 48 (bank * 2 ^ 32 + off),
      cr := { g'.cr with esw := { g'.cr.esw with bp := true, la := g'.cr.esw.la && !(jump && out) } } }
  | none, some off => { g with pc := BitVec.ofNat 32 off }
  | none, none =>
    if x.bp then
      let g' := g.after g.pc
      { g' with pc := g.bt.setWidth 32, cr := { g'.cr with esw := { g'.cr.esw with
        bp := false, cb := (g.bt >>> (32 : Nat)).setWidth 16 } } }
    else g.after g.pc

/-- The control register writes of a bundle, which apply from the next bundle (R147, R180 step 5). -/
def State.crMoves (s : State) (e : Nat) (l : List Mv) : State :=
  l.foldl (fun s m => if isCr m.dst then s.crPut e (m.dst - 0x100) (m.val.setWidth 64) else s) s

/-- The state as a bundle's triggers take effect: a value of CYC that it read is the count from then on (R154), operand
ports and registers are written (R180). -/
def State.begun (s : State) (e : Nat) (l : List Mv) : State :=
  let s := match l.find? (fun m => m.src = some 0x111), decide ((s.eng e).cr.esw.tx = 0) with
    | some m, true => (s.modEng e fun g => { g with cr := { g.cr with cyc := m.val.setWidth 64 } }).draw
    | _, _ => s
  s.modEng e fun g => (g.setPorts g.hset fun q => latchMoves q l).regMoves l

/-- A bundle whose checks have passed retires (R180, R182): its moves take effect in order, then a late
effect. Its own loop end goes by LS, LE and LC as they were, and an LC it writes
stands. An AFLAG it writes stands over the flags of its own triggers, but for a divide's, set at completion (R153). A
PX.t.seal or PX.t.yield stands though its bundle brings the count to 2^BLIMIT (R79). Of two triggers that name one P bit the
higher slot's value stands, whatever their latencies. The last four are the model's choices (log 16, 42). Beside an exception
of its late effect the answer is the state with the fills it made, the lines it registered and the errors it recorded (R84,
R88, R182). -/
def State.retire (s : State) (e : Nat) (l : List Mv) (as : List Act) : State × Except Halt State :=
  match runActs as (s.begun e l) with
  | .error h => (s, .error h)
  | .ok s1 =>
    let s1 := s1.modEng e fun g =>
      let g := as.foldl (fun g a => g.guardPut a.guard a.gval) g
      { g.countUp with nb := g.nb + 1 }
    match as.findSome? Act.late with
    | some f => match f (s1.crMoves e l) with
      | (s2, .error h) => (s.keepMicro s2 e, .error h)
      | (_, .ok s2) => (s, .ok s2)
    | none => (s, .ok ((s1.modEng e fun g => g.step as).crMoves e l))

/-- Whether a bundle stalls (R183): a result port or AFLAG it reads, or a unit it triggers, waits for a divide. -/
def State.stalls (s : State) (e : Nat) (b : Bundle) : Bool :=
  let g := s.eng e
  let ddHere := g.dd.elim false fun d => d.handler = g.hset
  let dfHere := g.df.elim false fun d => d.handler = g.hset
  (slotsOf b).any fun (_, x) =>
    (!x.short && ((ddHere && (x.sport = 0x281 || x.sport = 0x282)) || (dfHere && x.sport = 0x2A2) ||
      ((g.dd.isSome || g.df.isSome) && x.sport = 0x110))) ||
    (x.runs g.p && isTrig x.dst && g.busyFor x.dst)

/-- A string-class trigger goes on behind a bundle's values (R291): one that has nothing to move completes at once, behind its
words (R409). -/
def strReady (c : Cr) (p : Nat) : Bool := decide (0x310 ≤ p) && decide (p ≤ 0x314) && decide (c.scnt = 0)

/-- The values of moves as they are kept until their bundle retires. -/
def valsOf (l : List Mv) : Vals := l.map fun m => (m.slot, BitVec.ofNat 12 m.dst, BitVec.ofNat 9 m.op, m.val, m.pair)

/-- The moves of a bundle with the values they read as it issued (R291). -/
def movesOf (b : Bundle) (vals : Vals) : List Mv :=
  vals.map fun (i, d, op, val, pair) =>
    let x := (slotsOf b).find? fun p => p.1 = i
    ⟨i, d.toNat, op.toNat, x.bind fun p => if p.2.imm then none else some p.2.sport, val, pair⟩

/-- The move into PX.t.begin or PX.t.peek, if any (R202). -/
def pxWaits (l : List Mv) : Option Mv := l.find? fun m => m.dst = 0x3D0 || m.dst = 0x3D1

/-- The engine waits in PX.t.begin or PX.t.peek with a bundle that a dispatch will retire (R202); str: the string-class
operation of the bundle that has completed, which runs before the wait (log 16). -/
def State.pxWait (s : State) (e : Nat) (b : Bundle) (l : List Mv) (m : Mv)
    (str : Option (BitVec 12 × BitVec 9 × Tally × Bool)) : State :=
  s.modEng e fun g => { g with wait := some {
    resume := m.val.setWidth 32, esw := g.cr.esw, peekOnly := decide (m.dst = 0x3D1), bundle := b, vals := valsOf l
    str := str } }

/-- A bundle with a completed string-class operation retires: the result first, then its other moves (R291); one that also
triggers PX.t.begin or PX.t.peek waits now. -/
def State.strRetire (s : State) (e : Nat) (v : Env) (b : Bundle) (l : List Mv) (p op : Nat) (r : Tally) (pv : Bool) :
    State × Except Halt State :=
  let g := s.eng e
  let others := l.filter fun m => !isStr m.dst
  let po := latchMoves g.ports l
  let s1 := s.modEng e fun g => { g with str := none }
  match s1.prepAll e v po (slotsOf b) others with
  | (s, .error h) => (s, .error h)
  | (s2, .ok as) => match pxWaits others with
    | some m => (s, .ok (s2.pxWait e b others m (some (BitVec.ofNat 12 p, BitVec.ofNat 9 op, r, pv))))
    | none => match (s1.modEng e fun g => g.strResult p op r pv).retire e others as with
      | (s2, .error h) => (s.keepMicro s2 e, .error h)
      | (_, .ok s2) => (s, .ok s2)

/-- A bundle that waited in PX.t.begin or PX.t.peek retires at a dispatch (R180, R202, R291): its checks, made again, then its
effects. -/
def State.pxRetire (s : State) (e : Nat) (w : Wait) : State × Except Halt State :=
  let l := movesOf w.bundle w.vals
  let po := latchMoves (s.eng e).ports l
  match s.prepAll e {} po (slotsOf w.bundle) l with
  | (s, .error h) => (s, .error h)
  | (s, .ok as) =>
    let s1 := s.modEng e fun g =>
      let g := { g with wait := none }
      w.str.elim g fun x => g.strResult x.1.toNat x.2.1.toNat x.2.2.1 x.2.2.2
    match s1.retire e l as with
    | (s2, .error h) => (s.keepMicro s2 e, .error h)
    | (_, .ok s2) => (s, .ok s2)

/-- The decoded bundle executes: sources, checks, loads that wait, string operations, retirement. -/
def State.runBundle (s : State) (e : Nat) (b : Bundle) (v : Env) : Answer :=
  let g := s.eng e
  let sl := slotsOf b
  let l := s.moves e b
  let po := latchMoves g.ports l
  match s.prepAll e v po sl l with
  | (s1, .error h) => s.halted s1 e (ueLines v) 0 h
  | (s1, .ok as) =>
    let ws := (as.map Act.waits).flatten.eraseDups
    let mode := s.modeAt e
    if !ws.isEmpty then .next (s1.modEng e fun g => { g with
      missing := some (.rind b, ws), seen := mode, mem := { g.mem with early := (as.map Act.early).flatten } })
    else match l.find? (fun m => isStr m.dst), pxWaits l with
    | some m, _ => match s1.strBegin e m.dst (slotPort m.slot m.dst) with
      | .error h => s.halted s1 e (ueLines v) 0 h
      | .ok s2 =>
        let run : StrRun := {
          insn := .rind b, port := BitVec.ofNat 12 m.dst, opmod := BitVec.ofNat 9 m.op, vals := valsOf l
          micro := { at_ := rnEntry m.dst m.op (s.eng e).cr.ip } }
        let s2 := s2.modEng e fun g => { g with seen := mode, str := some run }
        if strReady (s2.eng e).cr m.dst then match s2.rnIter e v run with
        | .fail sub ea _ => .next ({ s2 with fresh := s2.fresh + 2 }.microStop e sub m.dst ea)
        | _ =>
          let (s3, r) := s2.stEnd e (m.dst - 0x310) 0 none
          let s3 := s3.modEng e fun g => { g with cr := { g.cr with saux := setBit g.cr.saux 63 false } }
          match s3.strRetire e v b l m.dst m.op (r.elim 0 Prod.fst) false with
          | (_, .error h) => s.halted s2 e (ueLines v) 0 h
          | (_, .ok s) => .next s
        else .next s2
    | none, some m => .next (s1.pxWait e b l m none)
    | none, none => match s1.retire e l as with
      | (s2, .error h) => s.halted s2 e (ueLines v) 0 h
      | (_, .ok s) => .next s

/-- Whether a bundle is a report point by what it names (R384). -/
def isReport (b : Bundle) : Bool :=
  (slotsOf b).any fun (_, x) =>
    (isTrig x.dst && [0x1C, 0x1E, 0x1F].contains (unitOf x.dst)) || isCr x.dst || (!x.short && isCr x.sport)

/-- Whether an engine executes code: running, not waiting, nothing held, its attempt below its limit. -/
def Eng.ready (g : Eng) : Bool :=
  decide (g.mode = .running) && g.wait.isNone && g.missing.isNone && g.str.isNone && !g.atLimit

/-- Whether a bundle is the report point of a condition, pending or still to be decided (R384). -/
def Eng.reportPoint (g : Eng) (b : Bundle) : Bool :=
  isReport b || g.imp.elim false (fun i => decide (i.at_ + 16 ≤ g.nb)) ||
    g.dd.elim false fun d => d.on && decide (d.at_ + 16 ≤ g.nb)

/-- A bundle issues (R170 to R206, R372): a machine check due at its boundary, one that its fetch's walk has raised too, or a
report is entered first, then its fetch and decode checks, stalls, and the bundle itself; a report point waits for a divide that has not decided (R384). An engine
that does not execute Rind takes no bundle. A bundle that is not the one the engine fetches is no command (R342, log 12). -/
def State.issue (s : State) (e : Nat) (b : Bundle) (v : Env) : Answer :=
  let g := s.eng e
  if !g.ready || !g.cr.esw.priv then .next s
  else if v.parity = some 5 then .next (s.stopEng e { exc := { cls := xMcheck, sub := 5 } } 0)
  else
    let s := s.corrected (ceLines v)
    match g.amc, g.cr.esw.bp with
    | some va, false => .next ((s.longDone e).mcheck e (ueLines v) va 0)
    | _, _ => match s.fetch e (ueLines v) 16 with
      | (s1, .error h) => s.halted s1 e (ueLines v) 0 h
      | (s1, .ok l) =>
        if ofBytes l ≠ b.toNat then .refused .notThisCommand
        else match (s1.eng e).amc, g.cr.esw.bp with
        | some va, false => .next ((s1.longDone e).mcheck e (ueLines v) va 0)
        | _, _ => match g.reportPoint b, g.owes, g.imp with
          | true, true, _ => .next s1
          | true, false, some i => .next (s1.report e (ueLines v) i)
          | _, _, _ => match decodeCheck b g.cr.esw.bp with
            | some x => s.halted s1 e (ueLines v) 0 (.exc x)
            | none => if s1.stalls e b then .next s1 else s1.runBundle e b v

/-- A row of triggers: the bundle must hold one of its ports. -/
def State.row (s : State) (ports : Nat → Bool) (e : EngId) (b : Bundle) (v : Env) : Answer :=
  if (slotsOf b).any fun p => ports p.2.dst then s.issue e.val b v else .refused .notThisCommand

/-- BUNDLE_MOVE (R180): any bundle issues. -/
def execBundleMove (e : EngId) (b : Bundle) (v : Env) (s : State) : Answer := s.issue e.val b v

/-- CR_WRITE (R166): a bundle with a move to a control register issues. -/
def execCrWrite (e : EngId) (b : Bundle) (v : Env) (s : State) : Answer := s.row isCr e b v

/-- ALU_ADD (R187): a bundle with this trigger issues. -/
def execAluAdd (e : EngId) (b : Bundle) (v : Env) (s : State) : Answer :=
  s.row (fun p => decide (p = 0x210) || decide (p = 0x230)) e b v

/-- ALU_SUB (R187): a bundle with this trigger issues. -/
def execAluSub (e : EngId) (b : Bundle) (v : Env) (s : State) : Answer :=
  s.row (fun p => decide (p = 0x211) || decide (p = 0x231)) e b v

/-- ALU_AND (R187): a bundle with this trigger issues. -/
def execAluAnd (e : EngId) (b : Bundle) (v : Env) (s : State) : Answer :=
  s.row (fun p => decide (p = 0x212) || decide (p = 0x232)) e b v

/-- ALU_OR (R187): a bundle with this trigger issues. -/
def execAluOr (e : EngId) (b : Bundle) (v : Env) (s : State) : Answer :=
  s.row (fun p => decide (p = 0x213) || decide (p = 0x233)) e b v

/-- ALU_XOR (R187): a bundle with this trigger issues. -/
def execAluXor (e : EngId) (b : Bundle) (v : Env) (s : State) : Answer :=
  s.row (fun p => decide (p = 0x214) || decide (p = 0x234)) e b v

/-- ALU_SHL (R187): a bundle with this trigger issues. -/
def execAluShl (e : EngId) (b : Bundle) (v : Env) (s : State) : Answer :=
  s.row (fun p => decide (p = 0x215) || decide (p = 0x235)) e b v

/-- ALU_SHR (R187): a bundle with this trigger issues. -/
def execAluShr (e : EngId) (b : Bundle) (v : Env) (s : State) : Answer :=
  s.row (fun p => decide (p = 0x216) || decide (p = 0x236)) e b v

/-- ALU_SAR (R187): a bundle with this trigger issues. -/
def execAluSar (e : EngId) (b : Bundle) (v : Env) (s : State) : Answer :=
  s.row (fun p => decide (p = 0x217) || decide (p = 0x237)) e b v

/-- ALU_MUL (R187): a bundle with this trigger issues. -/
def execAluMul (e : EngId) (b : Bundle) (v : Env) (s : State) : Answer :=
  s.row (fun p => decide (p = 0x218) || decide (p = 0x238)) e b v

/-- ALU_CEQ (R187): a bundle with this trigger issues. -/
def execAluCeq (e : EngId) (b : Bundle) (v : Env) (s : State) : Answer :=
  s.row (fun p => decide (p = 0x219) || decide (p = 0x239)) e b v

/-- ALU_CLT (R187): a bundle with this trigger issues. -/
def execAluClt (e : EngId) (b : Bundle) (v : Env) (s : State) : Answer :=
  s.row (fun p => decide (p = 0x21A) || decide (p = 0x23A)) e b v

/-- ALU_CLTU (R187): a bundle with this trigger issues. -/
def execAluCltu (e : EngId) (b : Bundle) (v : Env) (s : State) : Answer :=
  s.row (fun p => decide (p = 0x21B) || decide (p = 0x23B)) e b v

/-- DA_ADD (R241): a bundle with this trigger issues. -/
def execDaAdd (e : EngId) (b : Bundle) (v : Env) (s : State) : Answer :=
  s.row (fun p => decide (p = 0x250)) e b v

/-- DA_SUB (R241): a bundle with this trigger issues. -/
def execDaSub (e : EngId) (b : Bundle) (v : Env) (s : State) : Answer :=
  s.row (fun p => decide (p = 0x251)) e b v

/-- DA_CMP (R241): a bundle with this trigger issues. -/
def execDaCmp (e : EngId) (b : Bundle) (v : Env) (s : State) : Answer :=
  s.row (fun p => decide (p = 0x252)) e b v

/-- DA_SRND (R241): a bundle with this trigger issues. -/
def execDaSrnd (e : EngId) (b : Bundle) (v : Env) (s : State) : Answer :=
  s.row (fun p => decide (p = 0x253)) e b v

/-- DA_NEG (R241): a bundle with this trigger issues. -/
def execDaNeg (e : EngId) (b : Bundle) (v : Env) (s : State) : Answer :=
  s.row (fun p => decide (p = 0x254)) e b v

/-- DA_ABS (R241): a bundle with this trigger issues. -/
def execDaAbs (e : EngId) (b : Bundle) (v : Env) (s : State) : Answer :=
  s.row (fun p => decide (p = 0x255)) e b v

/-- DA_TEST (R241): a bundle with this trigger issues. -/
def execDaTest (e : EngId) (b : Bundle) (v : Env) (s : State) : Answer :=
  s.row (fun p => decide (p = 0x256)) e b v

/-- DM_MUL (R243): a bundle with this trigger issues. -/
def execDmMul (e : EngId) (b : Bundle) (v : Env) (s : State) : Answer :=
  s.row (fun p => decide (p = 0x270)) e b v

/-- DD_DIV (R244): a bundle with this trigger issues. -/
def execDdDiv (e : EngId) (b : Bundle) (v : Env) (s : State) : Answer :=
  s.row (fun p => decide (p = 0x290)) e b v

/-- DF_ADD (R265): a bundle with this trigger issues. -/
def execDfAdd (e : EngId) (b : Bundle) (v : Env) (s : State) : Answer :=
  s.row (fun p => decide (p = 0x2B0)) e b v

/-- DF_SUB (R265): a bundle with this trigger issues. -/
def execDfSub (e : EngId) (b : Bundle) (v : Env) (s : State) : Answer :=
  s.row (fun p => decide (p = 0x2B1)) e b v

/-- DF_MUL (R265): a bundle with this trigger issues. -/
def execDfMul (e : EngId) (b : Bundle) (v : Env) (s : State) : Answer :=
  s.row (fun p => decide (p = 0x2B2)) e b v

/-- DF_DIV (R278): a bundle with this trigger issues. -/
def execDfDiv (e : EngId) (b : Bundle) (v : Env) (s : State) : Answer :=
  s.row (fun p => decide (p = 0x2B3)) e b v

/-- DF_FMA (R265): a bundle with this trigger issues. -/
def execDfFma (e : EngId) (b : Bundle) (v : Env) (s : State) : Answer :=
  s.row (fun p => decide (p = 0x2B4)) e b v

/-- DF_CMP (R265): a bundle with this trigger issues. -/
def execDfCmp (e : EngId) (b : Bundle) (v : Env) (s : State) : Answer :=
  s.row (fun p => decide (p = 0x2B5)) e b v

/-- DF_CMPS (R265): a bundle with this trigger issues. -/
def execDfCmps (e : EngId) (b : Bundle) (v : Env) (s : State) : Answer :=
  s.row (fun p => decide (p = 0x2B6)) e b v

/-- DF_QUANT (R265): a bundle with this trigger issues. -/
def execDfQuant (e : EngId) (b : Bundle) (v : Env) (s : State) : Answer :=
  s.row (fun p => decide (p = 0x2B7)) e b v

/-- DF_RINT (R265): a bundle with this trigger issues. -/
def execDfRint (e : EngId) (b : Bundle) (v : Env) (s : State) : Answer :=
  s.row (fun p => decide (p = 0x2B8)) e b v

/-- DF_SCALEB (R265): a bundle with this trigger issues. -/
def execDfScaleb (e : EngId) (b : Bundle) (v : Env) (s : State) : Answer :=
  s.row (fun p => decide (p = 0x2B9)) e b v

/-- DF_MIN (R265): a bundle with this trigger issues. -/
def execDfMin (e : EngId) (b : Bundle) (v : Env) (s : State) : Answer :=
  s.row (fun p => decide (p = 0x2BA)) e b v

/-- DF_MAX (R265): a bundle with this trigger issues. -/
def execDfMax (e : EngId) (b : Bundle) (v : Env) (s : State) : Answer :=
  s.row (fun p => decide (p = 0x2BB)) e b v

/-- DF_WIDEN (R265): a bundle with this trigger issues. -/
def execDfWiden (e : EngId) (b : Bundle) (v : Env) (s : State) : Answer :=
  s.row (fun p => decide (p = 0x2BC)) e b v

/-- DF_NARROW (R265): a bundle with this trigger issues. -/
def execDfNarrow (e : EngId) (b : Bundle) (v : Env) (s : State) : Answer :=
  s.row (fun p => decide (p = 0x2BD)) e b v

/-- CV_B2D (R247): a bundle with this trigger issues. -/
def execCvB2d (e : EngId) (b : Bundle) (v : Env) (s : State) : Answer :=
  s.row (fun p => decide (p = 0x2D0)) e b v

/-- CV_D2B (R247): a bundle with this trigger issues. -/
def execCvD2b (e : EngId) (b : Bundle) (v : Env) (s : State) : Answer :=
  s.row (fun p => decide (p = 0x2D1)) e b v

/-- CV_T2F (R247): a bundle with this trigger issues. -/
def execCvT2f (e : EngId) (b : Bundle) (v : Env) (s : State) : Answer :=
  s.row (fun p => decide (p = 0x2D2)) e b v

/-- CV_F2T (R247): a bundle with this trigger issues. -/
def execCvF2t (e : EngId) (b : Bundle) (v : Env) (s : State) : Answer :=
  s.row (fun p => decide (p = 0x2D3)) e b v

/-- CV_PACK (R249): a bundle with this trigger issues. -/
def execCvPack (e : EngId) (b : Bundle) (v : Env) (s : State) : Answer :=
  s.row (fun p => decide (p = 0x2D4)) e b v

/-- CV_UNPK (R249): a bundle with this trigger issues. -/
def execCvUnpk (e : EngId) (b : Bundle) (v : Env) (s : State) : Answer :=
  s.row (fun p => decide (p = 0x2D5)) e b v

/-- CV_MDEC (R249): a bundle with this trigger issues. -/
def execCvMdec (e : EngId) (b : Bundle) (v : Env) (s : State) : Answer :=
  s.row (fun p => decide (p = 0x2D6)) e b v

/-- CK_GS1 (R250): a bundle with this trigger issues. -/
def execCkGs1 (e : EngId) (b : Bundle) (v : Env) (s : State) : Answer :=
  s.row (fun p => decide (p = 0x2F0)) e b v

/-- CK_LUHN (R250): a bundle with this trigger issues. -/
def execCkLuhn (e : EngId) (b : Bundle) (v : Env) (s : State) : Answer :=
  s.row (fun p => decide (p = 0x2F1)) e b v

/-- CK_M97 (R250): a bundle with this trigger issues. -/
def execCkM97 (e : EngId) (b : Bundle) (v : Env) (s : State) : Answer :=
  s.row (fun p => decide (p = 0x2F2)) e b v

/-- ST_MOVE (R285): a bundle with this trigger issues. -/
def execStMove (e : EngId) (b : Bundle) (v : Env) (s : State) : Answer :=
  s.row (fun p => decide (p = 0x310)) e b v

/-- ST_CMP (R285): a bundle with this trigger issues. -/
def execStCmp (e : EngId) (b : Bundle) (v : Env) (s : State) : Answer :=
  s.row (fun p => decide (p = 0x311)) e b v

/-- ST_SCAN (R285): a bundle with this trigger issues. -/
def execStScan (e : EngId) (b : Bundle) (v : Env) (s : State) : Answer :=
  s.row (fun p => decide (p = 0x312)) e b v

/-- ST_XLAT (R285): a bundle with this trigger issues. -/
def execStXlat (e : EngId) (b : Bundle) (v : Env) (s : State) : Answer :=
  s.row (fun p => decide (p = 0x313)) e b v

/-- ST_FILL (R285): a bundle with this trigger issues. -/
def execStFill (e : EngId) (b : Bundle) (v : Env) (s : State) : Answer :=
  s.row (fun p => decide (p = 0x314)) e b v

/-- ED_EDIT (R297): a bundle with this trigger issues. -/
def execEdEdit (e : EngId) (b : Bundle) (v : Env) (s : State) : Answer :=
  s.row (fun p => decide (p = 0x330)) e b v

/-- LS_LDB (R188): a bundle with this trigger issues. -/
def execLsLdb (e : EngId) (b : Bundle) (v : Env) (s : State) : Answer :=
  s.row (fun p => decide (p = 0x350) || decide (p = 0x370)) e b v

/-- LS_LDH (R188): a bundle with this trigger issues. -/
def execLsLdh (e : EngId) (b : Bundle) (v : Env) (s : State) : Answer :=
  s.row (fun p => decide (p = 0x351) || decide (p = 0x371)) e b v

/-- LS_LDW (R188): a bundle with this trigger issues. -/
def execLsLdw (e : EngId) (b : Bundle) (v : Env) (s : State) : Answer :=
  s.row (fun p => decide (p = 0x352) || decide (p = 0x372)) e b v

/-- LS_LDD (R188): a bundle with this trigger issues. -/
def execLsLdd (e : EngId) (b : Bundle) (v : Env) (s : State) : Answer :=
  s.row (fun p => decide (p = 0x353) || decide (p = 0x373)) e b v

/-- LS_LDT (R188): a bundle with this trigger issues. -/
def execLsLdt (e : EngId) (b : Bundle) (v : Env) (s : State) : Answer :=
  s.row (fun p => decide (p = 0x354) || decide (p = 0x374)) e b v

/-- LS_STB (R188): a bundle with this trigger issues. -/
def execLsStb (e : EngId) (b : Bundle) (v : Env) (s : State) : Answer :=
  s.row (fun p => decide (p = 0x358) || decide (p = 0x378)) e b v

/-- LS_STH (R188): a bundle with this trigger issues. -/
def execLsSth (e : EngId) (b : Bundle) (v : Env) (s : State) : Answer :=
  s.row (fun p => decide (p = 0x359) || decide (p = 0x379)) e b v

/-- LS_STW (R188): a bundle with this trigger issues. -/
def execLsStw (e : EngId) (b : Bundle) (v : Env) (s : State) : Answer :=
  s.row (fun p => decide (p = 0x35A) || decide (p = 0x37A)) e b v

/-- LS_STD (R188): a bundle with this trigger issues. -/
def execLsStd (e : EngId) (b : Bundle) (v : Env) (s : State) : Answer :=
  s.row (fun p => decide (p = 0x35B) || decide (p = 0x37B)) e b v

/-- LS_STT (R188): a bundle with this trigger issues. -/
def execLsStt (e : EngId) (b : Bundle) (v : Env) (s : State) : Answer :=
  s.row (fun p => decide (p = 0x35C) || decide (p = 0x37C)) e b v

/-- BR_JMP (R193): a bundle with this trigger issues. -/
def execBrJmp (e : EngId) (b : Bundle) (v : Env) (s : State) : Answer :=
  s.row (fun p => decide (p = 0x390)) e b v

/-- BR_CALL (R194): a bundle with this trigger issues. -/
def execBrCall (e : EngId) (b : Bundle) (v : Env) (s : State) : Answer :=
  s.row (fun p => decide (p = 0x391)) e b v

/-- BR_RET (R195): a bundle with this trigger issues. -/
def execBrRet (e : EngId) (b : Bundle) (v : Env) (s : State) : Answer :=
  s.row (fun p => decide (p = 0x392)) e b v

/-- BR_JMPF (R193): a bundle with this trigger issues. -/
def execBrJmpf (e : EngId) (b : Bundle) (v : Env) (s : State) : Answer :=
  s.row (fun p => decide (p = 0x393)) e b v

/-- BR_CALLF (R194): a bundle with this trigger issues. -/
def execBrCallf (e : EngId) (b : Bundle) (v : Env) (s : State) : Answer :=
  s.row (fun p => decide (p = 0x394)) e b v

/-- BR_RETX (R382): a bundle with this trigger issues. -/
def execBrRetx (e : EngId) (b : Bundle) (v : Env) (s : State) : Answer :=
  s.row (fun p => decide (p = 0x395)) e b v

/-- RP_LOOP (R198): a bundle with this trigger issues. -/
def execRpLoop (e : EngId) (b : Bundle) (v : Env) (s : State) : Answer :=
  s.row (fun p => decide (p = 0x3B0)) e b v

/-- PX_BEGIN (R202): a bundle with this trigger issues. -/
def execPxBegin (e : EngId) (b : Bundle) (v : Env) (s : State) : Answer :=
  s.row (fun p => decide (p = 0x3D0)) e b v

/-- PX_PEEK (R202): a bundle with this trigger issues. -/
def execPxPeek (e : EngId) (b : Bundle) (v : Env) (s : State) : Answer :=
  s.row (fun p => decide (p = 0x3D1)) e b v

/-- PX_SEAL (R203): a bundle with this trigger issues. -/
def execPxSeal (e : EngId) (b : Bundle) (v : Env) (s : State) : Answer :=
  s.row (fun p => decide (p = 0x3D2)) e b v

/-- PX_YIELD (R203): a bundle with this trigger issues. -/
def execPxYield (e : EngId) (b : Bundle) (v : Env) (s : State) : Answer :=
  s.row (fun p => decide (p = 0x3D3)) e b v

/-- SY_SYNC (R205): a bundle with this trigger issues. -/
def execSySync (e : EngId) (b : Bundle) (v : Env) (s : State) : Answer :=
  s.row (fun p => decide (p = 0x3F0)) e b v

/-- SY_SYNCM (R349): a bundle with this trigger issues. -/
def execSySyncm (e : EngId) (b : Bundle) (v : Env) (s : State) : Answer :=
  s.row (fun p => decide (p = 0x3F1)) e b v

/-- SY_IFLUSH (R352): a bundle with this trigger issues. -/
def execSyIflush (e : EngId) (b : Bundle) (v : Env) (s : State) : Answer :=
  s.row (fun p => decide (p = 0x3F2)) e b v

end Sys2Proof.Machine
end

