-- ==== Sys2Proof/Machine/Press.lean ====
section
/-! DEFINITION. The Press: dispatch and solo runs, seals, commits and stops, overruns and releases, the throttle, and
wheel placement (R74 to R136, R493, R502 to R505). -/

namespace Sys2Proof.Machine

/-! ### Engines that may take work (R92, R120) -/

/-- Whether an engine executes and is not draining (R92). -/
def Eng.executes (g : Eng) : Bool := decide (g.mode = .running) && !g.drain

/-- The slots of a vat reserved for peeks (R92). -/
def State.reservedSlots (s : State) (v : Nat) : List Nat :=
  ((List.range 18).filter fun k => (s.eng (18 * v + k)).executes).take (fld s.prs.ctl 39 36)

/-- Whether an engine is reserved for peeks. -/
def State.isReserved (s : State) (e : Nat) : Bool := (s.reservedSlots (vatOf e)).contains (slotOf e)

/-- The sealed, uncommitted transactions of an engine. -/
def State.sealedOn (s : State) (e : Nat) : List Tx :=
  (s.prs.txs.map Prod.snd).filter fun t => decide (t.phase = .sealed e)

/-- Whether an engine can take a dispatch (R92, R120, R121, R202, R395): it waits with no machine check due, its whey buffer is
free, and it holds fewer sealed transactions than SEAL_MAX. -/
def State.engFree (s : State) (e : Nat) : Bool :=
  let g := s.eng e
  let l := s.sealedOn e
  g.executes && g.wait.isSome && g.amc.isNone && g.att.isNone && !(s.vat (vatOf e)).inReset &&
    decide (l.length < fld s.prs.tune 2 0) && l.all Tx.acked

/-- Every engine number. -/
def allEngs : List Nat := List.range 1152

/-- Whether some engine reserved for peeks is free. -/
def State.reservedFree (s : State) : Bool := allEngs.any fun e => s.engFree e && s.isReserved e

/-! ### Dispatch (R74, R92, R127, R493) -/

/-- Whether a posting goes straight to a solo run (R127). -/
def State.directSolo (s : State) (key : Nat) (t : Tx) : Bool :=
  let r := s.prs.recipes.get t.rid {}
  let lane := s.itk.lanes.get (keyLane key) {}
  let on := fld s.prs.tune 37 32
  decide (r.policy = 2) || (bit s.prs.tune 3 &&
    ((decide (r.policy = 0) && r.held.isSome) || (decide (on ≠ 0) && decide (on ≤ lane.cscore))))

/-- Whether an engine can take a posting now (R92, R202, R493). -/
def State.takesPost (s : State) (e : Nat) : Bool :=
  s.engFree e && !s.isReserved e && (s.eng e).wait.elim false fun w => !w.peekOnly

/-- Mesh hops from a port unit, at the west edge in row 4 + port (R16, R493), to an engine's vat. -/
def portDist (port e : Nat) : Nat :=
  let v := vatOf e
  (if v / 8 < 4 + port then 4 + port - v / 8 else v / 8 - (4 + port)) + v % 8

/-- Whether no engine that can take a posting is nearer its port unit (R493); which of several at one distance takes it is
open, and the row names it (log 4). A replayed posting has no port. -/
def State.nearest (s : State) (port e : Nat) : Bool :=
  decide (4 ≤ port) || s.engs.all fun p => !s.takesPost p.1 || decide (portDist port e ≤ portDist port p.1)

/-- Whether selection is still to be made at this placement point (R61, R130). -/
def State.selecting (s : State) : Bool := s.prs.select && decide (s.trn.tick = 0)

/-- Whether an earlier posting waits for a speculative dispatch (R74 step 3). -/
def State.earlierQueued (s : State) (key : Nat) : Bool :=
  s.prs.txs.any fun p => decide (p.1 < key) && !p.2.peek && !p.2.solo && decide (p.2.phase = .queued)

/-- The attempt begins on an engine: the store buffer is written, the waiting bundle retires, its own stores are written, and
the begin state follows (R75, R202): an attempt begins with an empty store buffer, and no store write error can arise inside
it (R394). One met before is entered first, and the frame stays queued; so does it when the bundle raises an exception of its
own, as a partial store to a poisoned line does (R529). -/
def State.startAttempt (s : State) (e key : Nat) (w : Wait) : Answer :=
  let s := s.sbDrain e
  match (s.eng e).amc with
  | some va => .next ((s.longDone e).mcheck e [] va 0)
  | none => match s.pxRetire e w with
    | (s, .error h) => s.halted s e [] 0 h
    | (_, .ok s) => .next ((s.sbDrain e).beginAttempt e key false w)

/-- DISPATCH (R493): a queued frame goes to a free engine, a posting to one nearest its port unit; a posting that the
throttle or its policy sends solo is queued so (R127). That test is made once, at the dispatch of a posting that was never
stopped: the Press, not Intake, queues a stopped posting for its re-run (R81, log 31). -/
def execDispatch (e : EngId) (key : Key) (s : State) : Answer :=
  let k := key.toNat
  match s.prs.txs.find k, (s.eng e.val).wait with
  | some t, some w =>
    if !s.engFree e.val || !decide (t.phase = .queued) || t.solo then .next s
    else if t.peek then
      if s.heldTurn t.turn || (!s.isReserved e.val && s.reservedFree) then .next s
      else s.startAttempt e.val k w
    else if !s.takesPost e.val || !s.nearest t.port e.val || !s.isFinal t.turn || s.earlierQueued k || s.selecting then
      .next s
    else if decide (t.rerun = 0) && s.directSolo k t then
      .next (s.modTx k fun t => { t with solo := true, throt := true })
    else s.startAttempt e.val k w
  | _, _ => .next s

/-- SOLO_RUN_START (R85): a posting queued as a solo run begins once every earlier posting has committed. -/
def execSoloRunStart (e : EngId) (key : Key) (s : State) : Answer :=
  let k := key.toNat
  match s.prs.txs.find k, (s.eng e.val).wait with
  | some t, some w =>
    if s.takesPost e.val && s.nearest t.port e.val && decide (t.phase = .queued) && t.solo &&
        decide (s.headKey = some k) && s.isFinal t.turn && !s.selecting then
      s.startAttempt e.val k w
    else .next s
  | _, _ => .next s

/-! ### Seals and commits (R80, R81, R119 to R123) -/

/-- Lines of a list that a slice homes. -/
def State.homed (s : State) (v : Nat) (lines : List Nat) : Nat :=
  (lines.filter fun l => s.homeVat (l * 64) = v).length

/-- Pending lines at a slice: of sealed transactions whose seal has been acknowledged (R121). -/
def State.pendingAt (s : State) (v : Nat) : Nat :=
  s.prs.txs.foldl (fun n t => if t.2.acked then n + s.homed v (linesOf t.2.writes) else n) 0

/-- Staged lines at a slice, the ones not written back included (R121). -/
def State.stagedAt (s : State) (v : Nat) : Nat :=
  s.prs.batches.foldl (fun n b => n + s.homed v (linesOf b.2.staged)) (s.homed v (linesOf s.prs.back))

/-- Whether a slice has no room for the pending lines of a transaction that is not the head (R120, R122): 512 pending lines
and 16,384 of the pending and staged lines together are the head's. -/
def State.sealFull (s : State) (v n : Nat) : Bool :=
  decide (65536 - 512 < s.pendingAt v + n) || decide (262144 - 16384 < s.stagedAt v + s.pendingAt v + n)

/-- Whether a line of a list lies on a wheel that moves (R131 step 2). -/
def State.onMoving (s : State) (lines : List Nat) : Bool :=
  lines.any fun l => (s.prs.moving.find (s.wheelOf (l * 64))).isSome

/-- Whether the Press runs or finishes open batches (R558); in Safe Hold, Recovery and Test-Open it commits nothing (R563). -/
def State.pressOn (s : State) : Bool := [4, 5, 6, 7, 8].contains s.dev.mode

/-- SEAL_ACKNOWLEDGED (R121): the home slices take the pending lines of a sealed transaction; a slice without room stalls
it, except for the head (R120, R122), and a moving wheel holds it (R131). -/
def execSealAcknowledged (key : Key) (s : State) : Answer :=
  let k := key.toNat
  match s.prs.txs.find k with
  | none => .next s
  | some t => match t.phase with
    | .sealed _ =>
      let lines := linesOf t.writes
      if t.acked || s.onMoving lines || !s.pressOn then .next s
      else match (s.slicesOf lines).find? fun v => s.sealFull v (s.homed v lines) with
      | some v => if s.headKey = some k then .next (s.modTx k fun t => { t with acked := true })
        else .next (s.stallCount 6 v)
      | none => .next (s.modTx k fun t => { t with acked := true })
    | _ => .next s

/-- The line record of a commit (R134). -/
def lineRec (v batch line key : Nat) (data : List Byte) : List Byte :=
  withCrc (toBytes 2 1 ++ [BitVec.ofNat 8 v, 0] ++ toBytes 6 batch ++ toBytes 6 (line * 64) ++ keyBytes key ++ data ++
    List.replicate 28 0)

/-- The slice at which the head's commit waits for pending and staged lines together or for commit log space (R120). Its own
lines are among the pending ones; a section keeps room for the release mark that frees it (log 31). -/
def State.commitWaits (s : State) (lines : List Nat) : Option Nat :=
  (s.slicesOf lines).find? fun v =>
    let n := s.homed v lines
    decide (262144 < s.stagedAt v + s.pendingAt v) || decide (fld s.prs.cap 63 40 * 4096 < (s.prs.clog.get v {}).span n + 32)

/-- A later transaction is stopped by a commit (R81, R82, R125, R137); X rises for each wheel whose lines caused the stop
(R128). -/
def State.stopTx (s : State) (key : Nat) (t : Tx) (lines : List Nat) : State :=
  let hit := t.reads.filter fun l => lines.contains l
  let low := hit.foldl min (hit.headD 0)
  let s := s.stat 2 [s.homeVat (low * 64)]
  let s := match t.phase with
    | .running e => (s.countAttempt t (t.reads ++ (s.eng e).att.elim [] fun a => linesOf a.whey)).endOn e
    | _ => s
  let s := s.modRecipe t.rid fun r => { r with stop := r.stop + 1 }
  let s := s.modLane (keyLane key) fun l => { l with cscore := min 63 (l.cscore + 1) }
  let s := ((hit.map fun l => s.wheelOf (l * 64)).eraseDups).foldl (fun s w => s.modPrs fun p =>
    { p with wheels := p.wheels.put w { p.wheels.get w {} with x := (p.wheels.get w {}).x + 1 } }) s
  s.modTx key fun t =>
    if t.rerun < fld s.prs.ctl 35 32 then { t.again with rerun := t.rerun + 1, precise := false }
    else { t.again with solo := true, precise := false }

/-- The later transactions whose reads a commit changed (R81). -/
def State.victims (s : State) (key : Nat) (lines : List Nat) : List (Nat × Tx) :=
  s.prs.txs.filter fun p => decide (key < p.1) && !p.2.peek && p.2.reads.any fun l => lines.contains l

/-- The head transaction commits (R80): staged bytes, line records, counts, and the stops it causes. -/
def State.commitHead (s : State) (key : Nat) (t : Tx) : State :=
  let lines := linesOf t.writes
  let n := t.turn
  let b := s.prs.batches.get n {}
  let s := s.stat 1 (s.slicesOf (t.reads ++ t.wrote))
  let s := s.modPrs fun p => { p with
    txs := p.txs.drop key
    batches := p.batches.put n { b with
      staged := t.writes.foldl (fun m c => putByte m c.1 c.2) b.staged
      done := b.done ++ [⟨key, t.outcome, t.result, t.port, t.sub, t.src, t.header⟩]
      readyAt := s.now } }
  let s := lines.foldl (fun s l =>
    let v := s.homeVat (l * 64)
    let w := s.wheelOf (l * 64)
    let data := (List.range 64).map fun i => s.stagedByte (l * 64 + i)
    s.modPrs fun p => { p with
      clog := p.clog.put v ((p.clog.get v {}).put 128 (lineRec v n l key data))
      wheels := p.wheels.put w { p.wheels.get w {} with t := (p.wheels.get w {}).t + 1 } }) s
  (s.victims key lines).foldl (fun s p => s.stopTx p.1 p.2 lines) s

/-- COMMIT (R80): the head of the commit stream commits when its seal is acknowledged and there is room. An
uncorrectable error on a line it writes puts the device in Safe Hold (R112). -/
def execCommit (v : Env) (s : State) : Answer :=
  match s.prs.txs.find? (fun p => !p.2.peek) with
  | none => .next s
  | some (key, t) => match t.phase with
    | .sealed _ =>
      let lines := linesOf t.writes
      if !t.acked || s.onMoving lines || !s.pressOn then .next s
      else match lines.find? fun l => s.bad (ueLines v) (l * 64) with
      | some l => .next (s.ueSafe (l * 64) 5)
      | none => match s.commitWaits lines with
        | some w => .next (s.stallCount 7 w)
        | none => .next (s.commitHead key t)
    | _ => .next s

/-! ### Overruns and release (R95 to R105) -/

/-- Entry to Drain (R559, R561): batches up to the turn in which it begins are finished. -/
def State.toDrain (s : State) (cause : Nat) : State :=
  if [4, 5, 7, 8].contains s.dev.mode then
    (s.modDev fun d => { d with drainTo := s.trn.turn, fromReplay := decide (d.mode = 7) }).setMode 6 cause
  else s

/-- The tightening level of Intake put (R490). -/
def State.setG (s : State) (g : Nat) : State := s.modItk fun i => { i with status := setFld i.status 63 60 g }

/-- An overrun begins, unless one is in progress (R100). -/
def State.overrunBegin (s : State) (n : Nat) : State :=
  if bit s.prs.status 1 then s
  else
    let s := s.modPrs fun p => { p with status := setBit (setBit p.status 1 true) 2 true }
    let s := s.caveRec 0x0201 0xFF 0xFF (toBytes 6 n)
    let s := s.event 0x0201 (toBytes 6 n)
    if bit s.itk.ctl 0 then s.setG (min (fld s.itk.ctl 18 15) (fld s.itk.status 63 60 + 4)) else s

/-- The first tick after the commit deadline of a batch (R74 step 8). -/
def deadlineOf (n : Nat) : Nat := (n + 1) * 2 ^ 16 + 65520

/-- A recipe at a window's end (R124). -/
def Recipe.windowEnd (r : Recipe) (on hold : Nat) : Recipe :=
  { r with
    att := 0, stop := 0,
    held := match r.held with
      | none => if 64 ≤ r.att && on * r.att ≤ 256 * r.stop then some hold else none
      | some 0 => none
      | some (h + 1) => some h }

/-- A throttle window ends (R124, R125). -/
def State.windowEnd (s : State) : State :=
  let on := fld s.prs.tune 63 56
  let hold := fld s.prs.tune 55 48
  let halve (l : AMap Lane) := l.map fun p => (p.1, { p.2 with cscore := p.2.cscore / 2 })
  (s.modPrs fun p => { p with recipes := p.recipes.map fun r => (r.1, r.2.windowEnd on hold) }).modItk fun i =>
    { i with lanes := halve i.lanes, lanesOld := halve i.lanesOld, lanesPrev := halve i.lanesPrev }

/-- The computed release hash compared with a supplied one in Replay, the Drain that ends it included (R112, R505). -/
def State.compareHash (s : State) (n : Nat) (h : List Byte) : State :=
  match (if s.dev.mode = 7 || (s.dev.mode = 6 && s.dev.fromReplay) then s.via.rpl.hashes.find n else none) with
  | none => s
  | some x =>
    let s := s.modVia fun v => { v with rpl := { v.rpl with lastCmp := n } }
    if x = h || s.via.rpl.diverged.isSome then s
    else
      let s := s.modVia fun v => { v with rpl := { v.rpl with diverged := some n } }
      let s := s.caveRec 0x0401 0xFF 0xFF (toBytes 6 n)
      s.event 0x0401 (toBytes 6 n)

/-- The chain value of the LEDGER_LOAD and START records supplied before the release record of a batch, in Replay (R504,
R505): C of that batch. -/
def State.replayChain (s : State) (n : Nat) : State :=
  if s.dev.mode = 7 || (s.dev.mode = 6 && s.dev.fromReplay) then
    let l := s.via.rpl.chains.filter fun c => decide (c.1 ≤ n)
    (s.modPrs fun p => { p with chain := l.getLast?.elim p.chain Prod.snd }).modVia fun v =>
      { v with rpl := { v.rpl with chains := v.rpl.chains.filter fun c => decide (n < c.1) } }
  else s

/-- The release of a batch (R95, R101, R103): the last one is finished, every slice advances, RESULTs leave in key
order, and the RELEASE record follows. -/
def State.release (s : State) (n : Nat) (b : Batch) (slipped : Bool) : State :=
  let s := s.finishRelease.replayChain n
  let h := s.relHash n b
  let record := s.jrnRec 0x0002 s.trn.turn (s.relBody n b slipped h)
  let prior : Bytes := b.staged.map fun c => (c.1, s.rd c.1)
  let s := s.modPrs fun p => { p with
    relBatch := some n, marks := [], back := b.staged, batches := p.batches.drop n, chain := h, relHash := h
    versions := p.versions ++ (if prior.isEmpty then [] else [(n, prior)]) }
  let s := s.modPrs fun p => { p with versions := s.versionsKept }
  let s := b.done.foldl (fun s d => s.sendResult 1 d.key d.port d.sub d.src d.header d.outcome d.result) s
  let s := s.jrnAppend relTag record
  let s := s.compareHash n h
  let s := if slipped then
      let s := s.modPrs fun p => { p with
        count := satFld (if p.slipTurn = some s.trn.turn then p.count else satFld p.count 31 16 1) 63 32 1,
        slipTurn := some s.trn.turn }
      s.event 0x0203 (toBytes 6 n)
    else s
  let s := if s.now = (n + 2) * 2 ^ 16 && bit s.prs.status 1 then
      let s := s.modPrs fun p => { p with status := setBit p.status 1 false, count := setFld p.count 31 16 0 }
      let s := s.caveRec 0x0202 0xFF 0xFF (toBytes 6 n)
      s.event 0x0202 (toBytes 6 n)
    else s
  if n % max 1 (fld s.prs.tune 47 40) = 0 then s.windowEnd else s

/-- OVR_ACT 0b01 acts as SLIP_RUN reaches OVR_TURNS (R105): at the slip that makes them equal. A change of OVR_TURNS or
OVR_ACT does not make a count that is already past it act (log 31). -/
def State.ovrAct (s0 s : State) : State :=
  let r := fld s.prs.count 31 16
  if fld s.prs.ctl 15 14 = 1 && fld s0.prs.count 31 16 < r && r = fld s.prs.ctl 31 16 then s.toDrain 1 else s

/-- One entry of a WHEEL_HOME has taken effect (R460): its command, of 4 bytes an entry, completes after the last. slot: 0
for none, else slot + 1. -/
def State.homeDone (s : State) (slot : Nat) : State :=
  match slot with
  | 0 => s
  | k + 1 => match s.via.runs.find k with
    | none => s
    | some r =>
      let s := s.modVia fun v => { v with runs := v.runs.put k { r with count := r.count + 1 } }
      if r.count + 1 < numAt r.cmd.bytes 16 4 / 4 then s else s.complete k stDone (toBytes 4 (r.count + 1))

/-- The home map byte of a wheel put (R114). -/
def State.setHome (s : State) (w byte : Nat) : State :=
  s.modPrs fun p => { p with home := p.home.put w (BitVec.ofNat 8 byte) }

/-- The end of a wheel move (R131): write-back, the home map, counts from zero, and the command that waited (R460). -/
def State.moveEnds (s : State) (w byte slot : Nat) : State :=
  let s := (s.writeBackAt fun a => s.wheelOf a = w).setHome w byte
  (s.modPrs fun p => { p with
    wheels := p.wheels.drop w, moving := p.moving.drop w, plcStatus := satFld p.plcStatus 63 32 1 }).homeDone slot

/-- Whether an explicit home leaves a wheel at its vat: it only sets or clears PIN and moves nothing (R132). -/
def State.pinOnly (s : State) (w byte : Nat) : Bool := decide ((s.homeByte w).toNat % 64 = byte % 64)

/-- The explicit moves that begin at a release point, at most 64, in command order (R132); a wheel that moves, or whose
earlier command waits, waits. A wheel moved or pinned so is barred from selection. So is one whose PIN alone is cleared,
and a wheel with registrations, pending or staged lines moves all the same (log 41). -/
def State.startMoves : Nat → List Move → State → State
  | _, [], s => s
  | k, m :: l, s =>
    let wait (s : State) : State := s.modPrs fun p => { p with moves := p.moves ++ [m] }
    if (s.prs.moving.find m.wheel).isSome || s.prs.moves.any (fun x => x.wheel = m.wheel) then State.startMoves k l (wait s)
    else
      let s1 := s.modPrs fun p => { p with explicit := m.wheel :: p.explicit }
      if s.pinOnly m.wheel m.byte.toNat then
        State.startMoves k l (((if m.byte.getLsbD 7 then s1 else s).setHome m.wheel m.byte.toNat).homeDone (m.slot + 1))
      else if k = 0 then State.startMoves k l (wait s)
      else State.startMoves (k - 1) l
        (s1.modPrs fun p => { p with moving := p.moving.put m.wheel (m.byte.toNat, m.slot + 1) })

/-- The first release point after RUN is set releases nothing (R64): REL_BATCH becomes F − 2, or 0 where no such batch
exists, unless it is F − 1 already. -/
def State.firstPoint (s : State) : State :=
  let f := s.trn.start
  if f ≠ 0 && s.prs.relBatch = some (f - 1) then s
  else s.finishRelease.modPrs fun p =>
    { p with relBatch := if f < 2 then none else some (f - 2), marks := allVats, versions := [] }

/-- The tightening level at tick 0 of a turn (R490), after the release. -/
def State.tighten (s : State) : State :=
  let c := s.itk.ctl
  let k := (s.prs.txs.filter fun p => !p.2.peek && decide (p.2.turn < s.trn.turn)).length
  let g := fld s.itk.status 63 60
  if !bit c 0 then s.setG (min (fld c 14 11) (fld c 18 15))
  else if bit s.prs.status 1 || decide (1024 * fld c 42 31 < k) then s.setG (min (fld c 18 15) (g + 1))
  else if k < 1024 * fld c 30 19 then s.setG (g - 1)
  else s

/-- RELEASE_POINT (R95): at tick 0, the batch two turns back is released if its last commit met the deadline and nothing
makes it wait; else it slips (R100, R101). Intake's level follows (R490). Explicit wheel moves begin, whether or not a batch
is released here, and none begins at a slipped release (R132, log 41). -/
def execReleasePoint (s : State) : Answer :=
  if !s.ticking || s.trn.tick ≠ 0 || !s.trn.fresh then .next s
  else
    let s := s.modTrn fun t => { t with fresh := false }
    let t := s.trn.turn
    let s := if t = s.trn.start then s.firstPoint
      else match s.prs.batches with
        | [] => s
        | (n, b) :: _ =>
          if t < n + 2 then s
          else if n + 2 = t && s.isComplete n && !b.missed && b.readyAt < deadlineOf n && !s.relWaits then
            s.release n b false
          else if s.isComplete n && s.relWaits then s.overrunBegin n
          else if s.isComplete n && n + 2 < t then s
          else (s.modPrs fun p => { p with batches := p.batches.put n { b with missed := true } }).overrunBegin n
    let s := s.tighten
    let s := State.startMoves 64 s.prs.moves (s.modPrs fun p => { p with moves := [], explicit := [] })
    .next (if s.prs.select then s else s.riseOut)

/-- SLIPPED_RELEASE (R101): a late batch is released at a tick that is a multiple of 16, at least 16 ticks after its last
commit or wait ended; one that must wait begins an overrun unless one is in progress (R100). -/
def execSlippedRelease (s : State) : Answer :=
  match s.prs.batches with
  | [] => .next s
  | (n, b) :: _ =>
    if s.ticking && decide (n + 2 ≤ s.trn.turn) && !s.trn.fresh && decide (s.trn.turn ≠ s.trn.start) &&
        s.isComplete n then
      if s.relWaits then .next (s.overrunBegin n)
      else if decide (s.trn.tick % 16 = 0) && decide (b.readyAt + 16 ≤ s.now) then
        .next (State.ovrAct s (s.release n b true))
      else .next s
    else .next s

/-- COMMIT_DEADLINE (R74, R100): at the end of tick 65,519 an incomplete batch misses its deadline. -/
def execCommitDeadline (s : State) : Answer :=
  let n := s.trn.turn - 1
  match s.prs.batches.find n with
  | none => .next s
  | some b =>
    if s.ticking && decide (65519 ≤ s.trn.tick) && decide (s.trn.start < s.trn.turn) && !b.missed &&
        !s.isComplete n then
      .next ((s.modPrs fun p => { p with batches := p.batches.put n { b with missed := true } }).overrunBegin n)
    else .next s

/-- BATCH_MEMBERSHIP_FINAL (R480, R503): every batch of an earlier turn has its members, and the FRAME records of the turn
after it follow. -/
def execBatchMembershipFinal (s : State) : Answer :=
  .next (s.modPrs fun p => { p with batches := p.batches.map fun b =>
    if b.1 < s.trn.turn then (b.1, { b.2 with final := true }) else b }).jrnNext

/-- RELEASE_MARK (R134): a slice writes back its lines of the last released batch and writes its mark; when all have, the
release is durable (R135). -/
def execReleaseMark (w : VatId) (s : State) : Answer :=
  .next (((s.writeBack fun v => v = w.val).markSlice w.val).freeDurable)

/-! ### Placement (R128 to R132) -/

/-- A candidate of the placement loop. -/
structure Cand where
  w : Nat
  t : Nat
  g : Nat
  x : Nat
  load : Nat
  deriving DecidableEq, Repr

/-- Whether a candidate comes before another (R129). -/
def Cand.before (a b : Cand) : Bool :=
  decide (b.x < a.x) || (decide (a.x = b.x) && (decide (b.g < a.g) || (decide (a.g = b.g) && decide (a.w < b.w))))

/-- A candidate put in order. -/
def Cand.put (c : Cand) : List Cand → List Cand
  | [] => [c]
  | d :: l => if c.before d then c :: d :: l else d :: Cand.put c l

/-- Distance of a vat from a point in sixteenths of a hop (R129). -/
def dist16 (r16 c16 v : Nat) : Nat :=
  ((r16 : Int) - 16 * (v / 8 : Nat)).natAbs + ((c16 : Int) - 16 * (v % 8 : Nat)).natAbs

/-- The loads L(v) of the vats (R128). -/
def State.loads (s : State) : List Nat :=
  allVats.map fun v => s.prs.wheels.foldl (fun n w => if (s.homeByte w.1).toNat % 64 = v then n + w.2.n + w.2.t else n) 0

/-- The candidate a wheel makes, if any (R129), no wheel moved or pinned at this point (R132). A wheel without accesses,
which only MIN_ACC 0 admits, divides by 0: one of which lines were committed takes open quotients (log 4), one with no count
at all is none (log 31). -/
def State.candOf (s : State) (w : Nat) (x : Wheel) : Option Cand :=
  let c := s.prs.plcCtl
  let h := s.homeByte w
  if h.getLsbD 7 || x.n < fld c 47 32 || (s.prs.moving.find w).isSome || s.prs.explicit.contains w then none
  else
    let q (n : Nat) : Nat := if x.n = 0 then Config.freeNat (s.fresh + w) % 113 else 16 * n / x.n
    let r16 := q x.sr
    let c16 := q x.sc
    let t := (r16 + 8) / 16 * 8 + (c16 + 8) / 16
    let home := h.toNat % 64
    let g : Int := (dist16 r16 c16 home : Int) - dist16 r16 c16 t
    if t ≠ home && !bit s.prs.plcVmask t && (fld c 31 24 : Int) ≤ g then some ⟨w, t, g.toNat, x.x, x.n + x.t⟩ else none

/-- Whether a wheel has a registration, a pending line or a staged line of an unreleased batch (R129). -/
def State.wheelBusy (s : State) (w : Nat) : Bool :=
  let on (l : Nat) := decide (s.wheelOf (l * 64) = w)
  s.prs.txs.any (fun t => t.2.reads.any on || (linesOf t.2.writes).any on) ||
    s.prs.batches.any fun b => (linesOf b.2.staged).any on

/-- The moves a selection starts (R129). -/
def State.pickMoves (mean : Nat) : List Cand → Nat → List Nat → State → State
  | [], _, _, s => s
  | c :: l, moves, loads, s =>
    let ctl := s.prs.plcCtl
    if fld ctl 7 4 ≤ moves then s
    else if 16 * (loads.getD c.t 0 + c.load) ≤ fld ctl 23 16 * mean then
      if s.wheelBusy c.w then
        State.pickMoves mean l moves loads
          (s.modPrs fun p => { p with plcStatus := satFld p.plcStatus 15 0 1 })
      else
        let h := (s.homeByte c.w).toNat % 64
        let loads := (loads.set c.t (loads.getD c.t 0 + c.load)).set h (loads.getD h 0 - c.load)
        State.pickMoves mean l (moves + 1) loads
          (s.modPrs fun p => { p with moving := p.moving.put c.w (c.t, 0) })
    else State.pickMoves mean l moves loads s

/-- PLACEMENT_SELECTION (R129): at a placement point the loop selects and starts moves, or the point is skipped; the counts
begin again either way (R128), and TURN_OUT rises after it (R61). An explicit move that has begun need not have ended: its
wheel then counts at its old home (log 41). -/
def execPlacementSelection (s : State) : Answer :=
  if !s.selecting || s.trn.fresh then .next s
  else
    let s := (s.modPrs fun p => { p with select := false }).riseOut
    if !bit s.prs.plcCtl 0 || bit s.prs.status 1 then
      .next (s.modPrs fun p => { p with plcStatus := satFld p.plcStatus 31 16 1, wheels := [] })
    else
      let loads := s.loads
      let ok := allVats.filter fun v => !bit s.prs.plcVmask v
      let mean := (ok.map fun v => loads.getD v 0).sum / ok.length
      let cands := (s.prs.wheels.filterMap fun w => s.candOf w.1 w.2).foldl (fun l c => c.put l) []
      let s := State.pickMoves mean cands 0 loads s.draw
      .next (s.modPrs fun p => { p with wheels := [] })

/-- WHEEL_MOVE_COMPLETE (R131): a move hands over and every replica of the home map changes. -/
def execWheelMoveComplete (wheel : Nat) (s : State) : Answer :=
  match s.prs.moving.find wheel with
  | none => .next s
  | some (byte, slot) => .next (s.moveEnds wheel byte slot)

end Sys2Proof.Machine
end

