-- ==== Sys2Proof/Machine/Turner.lean ====
section
/-! DEFINITION. The Turner: ticks, turns, turn sources, holdover, receivers (R39 to R65). -/

namespace Sys2Proof.Machine

/-! ### Turn length (R41 to R52) -/

/-- Nominal turn length in mesh cycles (R41, R42). -/
def Turner.nominal (t : Turner) : Nat := fld t.ctl 63 47 * 2000

/-- The turn source (R44). -/
def Turner.src (t : Turner) : Nat := fld t.ctl 5 4

/-- The discipline (R46). -/
def Turner.disc (t : Turner) : Nat := fld t.ctl 7 6

/-- Whether the Turner is in holdover (R57). -/
def Turner.held (t : Turner) : Bool := bit t.status 3

/-- The signed value of TRN_STATUS.OFFS (R63). -/
def Turner.offs (t : Turner) : Int :=
  let x := fld t.status 63 40
  if x < 2 ^ 23 then x else (x : Int) - 2 ^ 24

/-- A number held within bounds. -/
def within (lo hi x : Int) : Int := max lo (min hi x)

/-- Whether the generator is disciplined by a reference (R46). -/
def Turner.disciplined (t : Turner) : Bool := decide (t.src = 0) && decide (t.disc ≠ 0)

/-- The signed distance from the nearest multiple of a period (R46): positive for an instant that follows it. -/
def phaseOf (period : Nat) (x : Int) : Int :=
  let m := x % (period : Int)
  if 2 * m < period then m else m - period

/-- The most that one turn's length moves tick 0, in mesh cycles (R48). -/
def Turner.bound (t : Turner) : Int := t.nominal / 64

/-- The phase error of a tick 0 in ns against the reference (R48, R63): OFFS, LOCK within 100 ns of the reference boundary,
and SLEW from an error that one turn cannot absorb until tick 0 is within the bound. own: the reference's own error, which
the bound adds; for PTP the servo offset. A positive error is a tick 0 that came late (log 26). -/
def Turner.judge (t : Turner) (own : Nat) (err : Int) : Turner :=
  let e := within (-(2 ^ 23)) (2 ^ 23 - 1) err
  let near := decide (err.natAbs ≤ 100 + own)
  let slew := decide (t.bound < (2 * err).natAbs) || (bit t.status 2 && !near)
  let status := setFld t.status 63 40 (e % 2 ^ 24).toNat
  { t with phase := some err, status := setBit (setBit status 2 slew) 1 near }

/-- The length of a turn that begins (R48, R51, R52, R57): of a generator that follows a reference, what takes the phase
error of its tick 0 away, by at most 1/64 of nominal; of an edge or of holdover, what they asked for; else nominal. -/
def Turner.nextLen (t : Turner) : Nat :=
  if t.held || t.src = 1 then t.goal
  else match t.disciplined, t.phase with
    | true, some e => ((t.nominal : Int) - within (-t.bound) t.bound (2 * e)).toNat
    | _, _ => t.nominal

/-- LOCK of a source without a phase reference (R63): present and not slewing. -/
def Turner.lockBit (t : Turner) : Bool := !t.held && !bit t.status 2

/-! ### Beginning a turn -/

/-- The configuration sets still held (R106, R107, R458): in force, to come, or used by a frame that has not ended. -/
def State.heldSets (s : State) : List CfgSet :=
  let now := s.setFor s.trn.turn
  s.via.sets.filter fun c => now = some c || decide (s.trn.turn < c.eff) || s.prs.txs.any (fun t => t.2.cfg = c.ver) ||
    s.prs.batches.any fun b => s.setFor b.1 = some c

/-- The configuration sets no frame uses any more leave, and their roots leave the TLBs (R107, R333): Viari issues OP ROOT
for each to every vat, which completes it as R331 states. -/
def State.pruneSets (s : State) : State :=
  let keep := s.heldSets
  let gone := s.via.sets.filter fun c => !keep.contains c
  let s := s.modVia fun v => { v with sets := keep }
  gone.foldl (fun s c => (s.tlbiIssue (BitVec.ofNat 64 (fld c.root 47 12 * 4096)) 2).1) s

/-- A supplied record reached in Replay (R496, R505): a FRAME of the turn is admitted with its journalled key and
journalled again, with no port to answer on; a CONFIG puts the set of its version in force from its E. The lane table is
unchanged (log 30). -/
def State.replayRecord (s : State) (n : Nat) (r : Nat × List Byte) : State :=
  let b := slice r.2 16 (r.2.length - 32)
  match numAt r.2 0 2 with
  | 0x0001 =>
    if r.1 ≠ n then s
    else
      let q := b.drop 32
      let peek := decide (numAt q 1 1 = 2)
      let t : Tx :=
        { peek := peek, turn := n, tick := numAt b 18 2, port := 4, sub := 0, src := ⟨0, 0, 0⟩, header := q.take 32
          payload := slice q 32 (numAt q 14 2), cfg := (s.setFor n).elim 0 CfgSet.ver }
      let s := s.jrnFrame n (s.jrnRec 0x0001 n b)
      let s := s.modItk fun i =>
        { i with status := if peek then satFld i.status 34 14 1 else satFld i.status 55 35 1 }
      s.modPrs fun x => { x with txs := x.txs.put (numAt b 0 16) t }
  | 0x0003 => s.modVia fun v =>
    { v with
      sets := v.sets.map fun c => if c.ver = numAt b 6 4 then { c with eff := numAt b 0 6 } else c
      floor := v.floor.filter fun n => decide (n ≠ numAt b 6 4) }
  | _ => s

/-- The supplied records up to a turn that begins (R505). -/
def State.replayAdmit (s : State) (n : Nat) : State :=
  if s.dev.mode ≠ 7 then s
  else
    let l := s.via.rpl.frames
    let s := s.modVia fun v => { v with rpl := { v.rpl with frames := l.filter fun r => decide (n < r.1) } }
    (l.filter fun r => decide (r.1 ≤ n)).foldl (fun s r => s.replayRecord n r) s

/-- The PTP time at the tick 0 that begins (R46, R498): the time counter has run for the turn that ends. At the first tick
0 its value is open (log 4), and while the device is not synchronised it says nothing of the reference. -/
def State.ptpTime (s : State) : Int :=
  if s.ticking then s.itk.ptp.time + (s.trn.len : Int) / 2 else Config.freeNat s.fresh

/-- The phase error of the tick 0 that begins, in ns, once a reference is known (R46, R48): against the multiples of the
period in PTP time, or what is left of the error against PPS_IN. -/
def State.phaseNow (s : State) : Option Int :=
  let t := s.trn
  let period := fld t.ctl 63 47 * 1000
  if !t.disciplined || t.held then none
  else if t.disc = 1 then (if s.itk.ptp.synced then some (phaseOf period s.ptpTime) else none)
  else t.phase.map fun e => phaseOf period (e + ((t.len : Int) - t.nominal) / 2)

/-- The error of the generator's reference (R48): of PTP the servo offset; of PPS_IN none is known. -/
def State.refError (s : State) : Nat := if s.trn.disc = 1 then s.itk.ptp.offset.natAbs else 0

/-- The Turner at the tick 0 that begins turn n, with the phase error of that tick (R48, R57, R63). -/
def Turner.begins (t : Turner) (n own : Nat) (phase : Option Int) : Turner :=
  let st := if t.held then satFld t.status 39 24 1 else t.status
  let t := { t with status := setBit st 0 true }
  let t := match t.disciplined, phase with
    | true, some e => t.judge own e
    | true, none => { t with status := setBit t.status 1 false }
    | false, _ => { t with status := setBit t.status 1 t.lockBit }
  { t with
    turn := n, tick := 0, len := t.nextLen, edge := false, first := false, fresh := true, rise := bit t.ctl 1 }

/-- Tick 0 of a turn begins (R40, R61, R463, R490, R107). The Turner receivers take up the count with the first tick 0 after
RUN is set (R53). -/
def State.beginTurn (s : State) (n : Nat) : State :=
  let phase := s.phaseNow
  let own := s.refError
  let first := !s.ticking
  let time := s.ptpTime
  let s := s.modTrn fun t => { t.begins n own phase with rx := if first then [] else t.rx }
  let s := if first then s.draw else s
  let s := s.modPrs fun p =>
    { p with
      batches := p.batches.put n {}
      select := decide (n % max 1 (fld p.plcCtl 63 48) = 0) }
  let s := s.modItk fun i =>
    { i with
      lanesPrev := i.lanesOld, keysPrev := i.keysOld, lanesOld := [], keysOld := []
      rewrittenPrev := i.rewritten, rewritten := []
      status := setFld (setFld i.status 55 35 0) 34 14 0, ptp := { i.ptp with time := time } }
  s.pruneSets.replayAdmit n

/-! ### Setting RUN (R45, R64) -/

/-- The first turn that a MODE_SET into a mode that runs begins with: TRN_NOW.TURN where it is still to come, else the turn
after it. -/
def State.firstTurn (s : State) : Nat := if s.trn.first then s.trn.turn else s.trn.turn + 1

/-- RUN set for a first turn F (R64): batches below F − 1 count as released, and batch F − 1 is there without postings
unless it is released. -/
def State.runTurns (s : State) (f : Nat) : State :=
  let s := s.modTrn fun t =>
    { t with
      ctl := setBit t.ctl 0 true, turn := f, tick := 0, start := f, first := false, fresh := false
      len := t.nominal, goal := t.nominal, hold := t.nominal, edge := false, edgeAt := none, lag := 0, rearm := false, phase := none
      status := setFld (setBit (setBit t.status 3 false) 2 false) 39 24 0 }
  s.modPrs fun p =>
    { p with
      status := setBit p.status 0 true, versions := []
      batches := if f = 0 || p.relBatch = some (f - 1) then [] else [(f - 1, { final := true })] }

/-- The Replay credits of Viari allow tick 0 of a turn (R52, R466, R561). -/
def State.credit (s : State) (n : Nat) : Bool :=
  (s.dev.mode = 6 && s.dev.fromReplay) ||
    (decide (0 < fld s.trn.status 23 19) && (s.via.rpl.hashes.find n).isSome && s.via.rpl.diverged.isNone)

/-- A credit consumed (R52); a Drain from Replay uses Viari's own (R561). -/
def State.useCredit (s : State) : State :=
  if s.trn.src = 2 && s.dev.mode ≠ 6 then
    s.modTrn fun t => { t with status := setFld t.status 23 19 (fld t.status 23 19 - 1) }
  else s

/-- Whether tick 0 of a turn may begin (R50 to R52, R57). -/
def State.mayBegin (s : State) (n : Nat) : Bool :=
  match s.trn.src with
  | 0 => true
  | 1 => s.trn.edge || s.trn.held
  | 2 => s.credit n
  | _ => false

/-! ### Receivers (R53, R54): 64 vats, 4 Intake port units, 12 memory controllers -/

/-- A receiver's entry. -/
def State.rxOf (s : State) (r : Nat) : Rx := (s.trn.rx.find r).getD { turn := s.trn.turn, tick := s.trn.tick }

/-- The state with a receiver's entry put. -/
def State.putRx (s : State) (r : Nat) (x : Rx) : State := s.modTrn fun t => { t with rx := t.rx.put r x }

/-- A receiver's count after a strobe (R53): the tick after its own, and after tick 65,535 tick 0 of the next turn. -/
def Rx.strobe (x : Rx) : Rx := if x.tick < 65535 then { x with tick := x.tick + 1 } else { x with turn := x.turn + 1, tick := 0 }

/-- A receiver found a mismatch or a parity error (R54): it waits for the next check word. A parity error counts as a mismatch
toward the second one within a turn (log 26). -/
def State.misaligned (s : State) (r : Nat) : State :=
  let x := s.rxOf r
  let again := decide (x.bad = some s.trn.turn)
  let id : Byte := if r < 64 then BitVec.ofNat 8 r else 0xFF
  let s := (s.putRx r { x with bad := some s.trn.turn, waiting := true }).modTrn fun t =>
    { t with status := setBit t.status 8 true }
  let s := s.event 0x0103 [id]
  if again then s.cause 0x0103 id.toNat 0xFF [id, 1] [] else s.caveRec 0x0103 id.toNat 0xFF [id, 0]

/-- Mismatches at the receivers of a list (R53). -/
def State.misalignedAll (s : State) (l : List Nat) : State :=
  l.foldl (fun s r => if r < 80 then s.misaligned r else s) s

/-- The strobe of the tick that has begun reaches the receivers (R53, R54): one that missed it, or found a parity error in
it, keeps the count it had (log 26), every other advances its own. `s0` is the state before the tick. -/
def State.strobe (s0 s : State) (bad missed : List Nat) : State :=
  let stay (r : Nat) : Bool := bad.contains r || missed.contains r
  let s := s.modTrn fun t => { t with rx := t.rx.map fun p => if stay p.1 then p else (p.1, p.2.strobe) }
  let s := (bad ++ missed).foldl (fun s r => if r < 80 then s.putRx r (s0.rxOf r) else s) s
  s.misalignedAll bad

/-- What a receiver does with a check word (R53, R54): one that waits takes its value, every other compares; a word with a
parity error is no value to take. -/
def State.checkAt (s : State) (bad : List Nat) (r : Nat) : State :=
  let x := s.rxOf r
  if bad.contains r then s.misaligned r
  else if x.waiting then s.putRx r { x with turn := s.trn.turn, tick := s.trn.tick, waiting := false }
  else if x.turn = s.trn.turn && x.tick = s.trn.tick then s
  else s.misaligned r

/-- TICK (R41): the next tick begins; after tick 65,535, tick 0 of the next turn when its source allows it. A turn 2^48 − 1
never begins (R65). -/
def execTick (bad : Strobe) (s : State) : Answer :=
  if !bit s.trn.ctl 0 then .next s
  else if s.ticking && decide (s.trn.tick < 65535) then
    let s1 := s.riseOut.modTrn fun t => { t with tick := t.tick + 1 }
    let s1 := if s1.trn.tick = 256 then s1.turnOutTo false else s1
    .next (State.strobe s s1 bad.bad bad.missed)
  else
    let n := if s.ticking then s.trn.turn + 1 else s.trn.turn
    if s.mayBegin n && decide (n < 2 ^ 48 - 1) then .next (State.strobe s (s.useCredit.beginTurn n) bad.bad bad.missed) else .next s

/-- CHECK_WORD (R53): at a tick that is a multiple of 256 every receiver compares its count with the check word, or takes
it (R54). A receiver that is not listed counts as the Turner does. -/
def execCheckWord (bad : List Nat) (s : State) : Answer :=
  if s.ticking && decide (s.trn.tick % 256 = 0) then
    .next ((s.trn.rx.map Prod.fst ++ bad.filter fun r => (s.trn.rx.find r).isNone && decide (r < 80)).foldl
      (fun s r => s.checkAt bad r) s)
  else .next s

/-- INTAKE_CLOSE (R40): at the end of tick 65,535 the turn's arrivals are over. The turn of a frame is fixed by its last
byte (R480), so nothing else changes; membership is final when BATCH_MEMBERSHIP_FINAL says so. -/
def execIntakeClose (s : State) : Answer := .next s

/-! ### Sources (R46 to R59) -/

/-- The start of a tick of the current turn, in mesh cycles from its tick 0 (R41). -/
def Turner.startOf (t : Turner) (k : Nat) : Nat := k * t.len / 65536

/-- The acceptance and stretch tolerance in mesh cycles of a turn length (R50, R51). -/
def Turner.tolOf (t : Turner) (len : Nat) : Nat := fld t.ctl 43 32 * len / 65536

/-- Holdover is left (R59). -/
def State.restored (s : State) : State :=
  let n := fld s.trn.status 39 24
  let s := s.modTrn fun t =>
    { t with rearm := decide (t.src = 1), status := setBit (setFld (setBit t.status 3 false) 39 24 0) 2 true }
  let s := s.caveRec 0x0102 0xFF 0xFF
    ([BitVec.ofNat 8 s.trn.src, BitVec.ofNat 8 s.trn.disc] ++ toBytes 4 n)
  s.event 0x0102 (toBytes 4 n)

/-- The length that a measured interval asks for while slewing: at most 1/64 of nominal from the last (R59). -/
def Turner.slewTo (t : Turner) (x : Nat) : Nat :=
  if bit t.status 2 then min (max x (t.len - t.nominal / 64)) (t.len + t.nominal / 64) else x

/-- An edge accepted in a turn (R50, R51, R59): the lag, what it sets, and the length of the turn it begins. -/
def Turner.accept (t : Turner) (cycle : Nat) : Turner :=
  let early := decide (cycle < t.startOf 65535)
  let first := (cycle * 65536 + t.len - 1) / max 1 t.len
  let lag := if early then 2 * (65536 - first) else 0
  let status := if early then setBit t.status 6 true else if t.len ≤ cycle then setBit t.status 7 true else t.status
  let t := { t with edge := true, lag := lag, status := status }
  if t.rearm then { t with rearm := false, goal := t.hold, edgeAt := some (if early then lag else 1) }
  else
    let tol := t.tolOf t.nominal
    let p := match t.edgeAt with
      | some o => min (max (cycle + o) (t.nominal - tol)) (t.nominal + tol)
      | none => t.nominal
    let want := p - lag
    let len := t.slewTo want
    { t with
      goal := len, hold := len + lag, edgeAt := some (if early then lag else 1)
      status := setBit t.status 2 (bit t.status 2 && decide (len ≠ want)) }

/-- TURN_IN_EDGE (R49 to R51, R59): an edge detected a number of mesh cycles after tick 0 of the current turn. Before RUN
no window is open, so that it is ignored. In holdover the first edge is the source's return and is accepted wherever it
falls. -/
def execTurnInEdge (cycle : Nat) (s : State) : Answer :=
  let t := s.trn
  let glitch := s.modTrn fun t => { t with status := setBit t.status 5 true }
  if t.src ≠ 1 then .next s
  else if !bit t.ctl 0 || t.edge then .next glitch
  else if !s.ticking then
    .next (s.modTrn fun t => { t with edge := true, edgeAt := some 1, lag := 0, goal := t.nominal, hold := t.nominal })
  else if t.held then .next (s.restored.modTrn fun t => t.accept cycle)
  else if t.rearm || (decide (t.startOf (65536 - fld t.ctl 43 32) ≤ cycle) && decide (cycle < t.len + t.tolOf t.len)) then
    .next (s.modTrn fun t => t.accept cycle)
  else .next glitch

/-- PPS_IN_EDGE (R46, R48): the phase error of the last tick 0 against PPS_IN. -/
def execPpsInEdge (err : Int) (s : State) : Answer :=
  if s.trn.src = 0 && 2 ≤ s.trn.disc && s.ticking && !s.trn.held then .next (s.modTrn fun t => t.judge s.refError err) else .next s

/-- TURN_SOURCE_LOST (R56, R57): holdover begins; for TURN_IN the stretched tick 65,535 ends and tick 0 begins. -/
def execTurnSourceLost (s : State) : Answer :=
  let t := s.trn
  let late := decide (t.src = 1) && decide (t.tick = 65535) && !t.edge
  if s.ticking && !t.held && (late || t.disciplined) then
    let s := s.modTrn fun t =>
      { t with
        goal := if t.src = 1 then t.hold else t.len
        hold := if t.src = 1 then t.hold else t.len
        rearm := false, edgeAt := none, phase := none
        status := setFld (setBit (setBit (setBit (setBit t.status 3 true) 4 true) 2 false) 1 false) 39 24 0 }
    let s := s.modItk fun i => { i with ptp := { i.ptp with synced := false } }
    let s := s.caveRec 0x0101 0xFF 0xFF [BitVec.ofNat 8 t.src, BitVec.ofNat 8 t.disc]
    let s1 := s.event 0x0101 []
    .next (if late && decide (t.turn + 1 < 2 ^ 48 - 1) then State.strobe s1 (s1.riseOut.beginTurn (t.turn + 1)) [] [] else s1)
  else .next s

/-- TURN_SOURCE_RESTORED (R59): holdover is left and the Turner re-locks. -/
def execTurnSourceRestored (s : State) : Answer := .next (if s.ticking && s.trn.held then s.restored else s)

/-- HOLD_TURNS_REACHED (R58): under HOLD_ACT 0b01 Drain begins. -/
def execHoldTurnsReached (s : State) : Answer :=
  let t := s.trn
  if s.ticking && t.held && decide (fld t.ctl 15 14 = 1) && decide (fld t.ctl 31 16 ≤ fld t.status 39 24) then
    .next (s.toDrain 1)
  else .next s

/-- REF10M_OUT_OF_TOLERANCE (R56): the frequency reference of DISC 0b10 switches to SYSCLK, or back. -/
def execRef10mOutOfTolerance (bad : Bool) (s : State) : Answer :=
  if s.trn.src = 0 && s.trn.disc = 2 then .next (s.modTrn fun t => { t with status := setBit t.status 9 bad }) else .next s

/-- TURN_NUMBER_LIMIT (R65): Drain from turn 2^48 − 2^20 on, after which TURN_CONFIG takes any FIRST that R64 allows, and
Safe Hold from turn 2^48 − 2 on. -/
def execTurnNumberLimit (s : State) : Answer :=
  if !s.ticking then .next s
  else if 2 ^ 48 - 2 ≤ s.trn.turn then .next (s.safeHold (some (0xFFFF, 0)) none)
  else if 2 ^ 48 - 2 ^ 20 ≤ s.trn.turn then .next ((s.modVia fun v => { v with warmD := none }).toDrain 1)
  else .next s

end Sys2Proof.Machine
end

