-- ==== Sys2Proof/Machine/Intake.lean ====
section
/-! DEFINITION. Intake: frames decided, admitted, answered and sent; neighbours; PTP (R69 to R73, R471 to R500). -/

namespace Sys2Proof.Machine

/-! ### Frames (R475, R478) -/

/-- LANE of a QLF header. -/
def hLane (p : List Byte) : Nat := numAt p 4 3
/-- SEQ of a QLF header. -/
def hSeq (p : List Byte) : Nat := numAt p 7 5
/-- RID of a QLF header. -/
def hRid (p : List Byte) : Nat := numAt p 12 2
/-- PLEN of a QLF header. -/
def hPlen (p : List Byte) : Nat := numAt p 14 2

/-- Whether one payload field passes (R478). -/
def fieldOk (type : Nat) (v : List Byte) : Bool :=
  let n := v.length
  match type with
  | 1 => n = 12
  | 2 => decide (1 ≤ n) && decide (n ≤ 32)
  | 3 => n = 8
  | 4 => n = 14 && decide (1 ≤ numAt v 12 1) && decide (numAt v 12 1 ≤ 4) && decide (numAt v 13 1 < 4)
  | 5 => n = 7
  | 6 => decide (1 ≤ n)
  | 7 => n = 8
  | 8 => decide (1 ≤ n)
  | _ => false

/-- Whether fields tile a payload and pass (R478). The first number bounds the fields. -/
def fieldsOk : Nat → List Byte → Bool
  | _, [] => true
  | 0, _ => false
  | k + 1, p =>
    let n := numAt p 1 1
    decide (2 + n ≤ p.length) && fieldOk (numAt p 0 1) (slice p 2 n) && fieldsOk k (p.drop (2 + n))

/-! ### The sequence window (R483) -/

/-- What the window says of a sequence. -/
inductive SeqTest where
  | fresh | duplicate | stale | jump
  deriving DecidableEq, Repr

/-- The test of a sequence (R483). -/
def Lane.test (l : Lane) (jump sq : Nat) : SeqTest :=
  let h := l.hiseq
  if h + 2 ^ jump < sq then .jump
  else if sq ≤ h && decide (h ≤ sq + 63) && bit l.win (h - sq) then .duplicate
  else if h = 2 ^ 40 - 1 then .stale
  else if h < sq then .fresh
  else if h ≤ sq + 63 then .fresh
  else .stale

/-- The window after an admission (R483). -/
def Lane.take (l : Lane) (sq : Nat) : Lane :=
  if l.hiseq < sq then
    { l with hiseq := sq, win := BitVec.ofNat 64 (l.win.toNat * 2 ^ min 64 (sq - l.hiseq) + 1) }
  else { l with win := setBit l.win (l.hiseq - sq) true }

/-- The window that a frame was tested by moves (R483, R484): in every copy of the lane's entry up to one whose window
LANE_WRITE has set since (R463), so that each later decision and LANE_READ see it. Copies: the entry in force until the last
tick 0, the one in force until the next, the table's. -/
def State.modWindow (s : State) (turn : Option Nat) (l : Nat) (f : Lane → Lane) : State :=
  s.modItk fun i =>
    let old := if i.rewrittenPrev.contains l then 1 else 0
    let new := if i.rewritten.contains l then old + 1 else old
    let used :=
      if s.before turn && (i.lanesPrev.find l).isSome then 0 else if (i.lanesOld.find l).isSome then old else new
    { i with
      lanesPrev := if used = 0 then laneIn i.lanesPrev l f else i.lanesPrev
      lanesOld := if used = old then laneIn i.lanesOld l f else i.lanesOld
      lanes := if used = new then laneIn i.lanes l f else i.lanes }

/-! ### Limits (R490, R491) -/

/-- LIM(c) (R490). -/
def State.limit (s : State) (c : Nat) : Nat :=
  fld s.itk.ctl 63 43 * (64 - min 64 (fld s.itk.status 63 60 * fld s.itk.weight (4 * c + 3) (4 * c))) / 64

/-- Postings admitted in a turn: PT, or for a turn before the current one its postings, none of which has been
dispatched (R480, R490). -/
def State.admitted (s : State) (turn : Nat) : Nat :=
  if turn = s.trn.turn then fld s.itk.status 55 35
  else (s.prs.txs.filter fun p => !p.2.peek && decide (p.2.turn = turn)).length

/-- The BUSY reason of a POST or PEEK at check 11, if any (R481, R491). -/
def State.busy (s : State) (peek : Bool) (turn : Option Nat) (cls : Nat) : Option Nat :=
  match turn with
  | none => some 6
  | some n =>
    if s.isFinal n then some 7
    else if !(s.dev.mode = 4 || s.dev.mode = 5 || s.dev.mode = 8) then some 6
    else if s.via.jrn.low then some 5
    else if peek then (if 131072 ≤ s.peeksHeld then some 4 else none)
    else if 7 ≤ (s.prs.batches.filter fun b => decide (b.1 < n)).length then some 3
    else if 1048576 ≤ s.admitted n then some 2
    else if s.limit cls ≤ s.admitted n then some 1
    else none

/-! ### Answers -/

/-- An ACK, BUSY or REJECT to a frame (R475, R476, R479, R495). -/
def State.answer (s : State) (port sub : Nat) (f : RxFrame) (kind code : Nat) : State :=
  let l := hLane f.payload
  let s := match kind with
    | 0x82 => (s.modLane l fun x => { x with nBusy := min (x.nBusy + 1) (2 ^ 32 - 1) }).count port cTxBusy
    | 0x83 => (s.modLane l fun x => { x with nReject := min (x.nReject + 1) (2 ^ 32 - 1) }).count port cTxReject
    | _ => s
  let body := if kind = 0x84 then
      toBytes 6 s.trn.turn ++ toBytes 5 (s.laneAt f.turn l).hiseq ++ [0] ++ toBytes 4 (fld s.trn.ctl 63 47)
    else []
  s.send port sub 3 f.src
    (qlf ((s.laneKeyAt f.turn l).getD []) f.payload kind (numAt f.payload 2 1) code (s.trn.turn % 2 ^ 32) body)

/-- The FRAME record of an admission (R502). -/
def State.frameRecord (s : State) (key turn tick port sub : Nat) (payload : List Byte) : List Byte :=
  s.jrnRec 0x0001 turn (keyBytes key ++ [BitVec.ofNat 8 (4 * port + sub), 0] ++ toBytes 2 tick ++
    List.replicate 12 0 ++ payload)

/-- Admission (R485, R486): key, journal record, lane entry, counters, and the transaction. -/
def State.admitFrame (s : State) (port sub : Nat) (f : RxFrame) (peek : Bool) (turn ver cls : Nat) : State :=
  let p := f.payload
  let l := hLane p
  let key := orderKey turn cls l (hSeq p)
  let s := s.jrnFrame turn (s.frameRecord key turn f.tick port sub p)
  let s := s.modLane l fun x => { x with nAdmit := min (x.nAdmit + 1) (2 ^ 32 - 1), lastTurn := turn }
  let s := s.modWindow f.turn l fun x => x.take (hSeq p)
  let s := s.count port (if peek then cAdmitPeek else cAdmitPost)
  let s := if turn ≠ s.trn.turn then s
    else s.modItk fun i =>
      { i with status := if peek then satFld i.status 34 14 1 else satFld i.status 55 35 1 }
  let t : Tx :=
    { peek := peek, turn := turn, tick := f.tick, port := port, sub := sub, src := f.src, header := p.take 32
      payload := p.drop 32, cfg := ver }
  s.modPrs fun x => { x with txs := x.txs.put key t }

/-- Checks 7 to 12 of a POST or PEEK (R482). -/
def State.checkKind (s : State) (port sub : Nat) (f : RxFrame) (x : Lane) (peek : Bool) : State :=
  let p := f.payload
  let set := s.setFor (f.turn.getD s.trn.turn)
  let desc := set.bind fun c => (c.desc (hRid p)).map fun d => (c, d)
  if !(if peek then x.peekEn else x.postEn) || !x.ports.getLsbD (4 * port + sub) then s.answer port sub f 0x83 1
  else match desc with
    | none => s.answer port sub f 0x83 2
    | some (c, d) =>
      if !(d.getD 2 0).getLsbD (if peek then 1 else 0) then s.answer port sub f 0x83 2
      else if !fieldsOk 1408 (p.drop 32) then s.answer port sub f 0x83 5
      else match x.test (fld s.itk.ctl 8 4) (hSeq p) with
        | .duplicate => s.answer port sub f 0x84 1
        | .stale => s.answer port sub f 0x83 3
        | .jump => s.answer port sub f 0x83 4
        | .fresh =>
          let cls := min (numAt p 2 1) x.classMax
          match s.busy peek f.turn cls, f.turn with
          | some r, _ => (if r = 7 then s.count port cLate else s).answer port sub f 0x82 r
          | none, some n => s.admitFrame port sub f peek n c.ver cls
          | none, none => s

/-- Whether a frame passes check 1 at a sub-port (R472, R482). -/
def SubPort.takes (x : SubPort) (f : RxFrame) : Bool :=
  x.set && f.fcsOk && decide (f.size ≤ 1600) && decide (f.vlan = x.vlan) && decide (f.ipver = x.ipver) && !f.fragment &&
    decide (f.dstIp = x.ip) && decide (f.dstUdp = x.udp) && f.csumOk

/-- Whether a UDP payload passes check 2 (R482). -/
def qlfOk (f : RxFrame) : Bool :=
  let n := hPlen f.payload
  decide (f.udpLen = 32 + n) && decide (f.payload.length = 32 + n) && decide (n ≤ 1408) &&
    decide (numAt f.payload 0 1 = 1) && [1, 2, 3].contains (numAt f.payload 1 1)

/-- A received frame decided by the checks of R482. -/
def State.judge (s : State) (port sub : Nat) (f : RxFrame) : State :=
  if !s.portsOn then s
  else
    let s := s.count port cRx
    let p := f.payload
    let l := hLane p
    let x := s.laneAt f.turn l
    if !(s.sub port sub).takes f || !qlfOk f then s.count port cDropFmt
    else if 1048576 ≤ l || !x.valid || !x.keyv then s.count port cDropLane
    else match s.laneKeyAt f.turn l with
      | none => s.count port cDropLane
      | some k =>
        if macOf k p (p.drop 32) ≠ slice p 20 12 then
          (s.modLane l fun x => { x with nAuth := min (x.nAuth + 1) (2 ^ 32 - 1) }).count port cDropAuth
        else if 8 ≤ numAt p 2 1 || numAt p 3 1 ≠ 0 || numAt p 16 4 ≠ 0 then s.answer port sub f 0x83 7
        else if numAt p 1 1 = 3 then s.answer port sub f 0x84 0
        else s.checkKind port sub f x (decide (numAt p 1 1 = 2))

/-- The frame with the turn and tick of its last byte held to what its port unit's receiver can have given (R480): no count
that is still to come, and none where no tick has been issued since RUN was set. -/
def State.stamped (s : State) (port : Nat) (f : RxFrame) : RxFrame :=
  let x := s.rxOf (64 + port)
  match f.turn with
  | none => f
  | some n =>
    if bit s.trn.ctl 0 && !s.ticking then { f with turn := none }
    else if n < x.turn || (n = x.turn && f.tick ≤ x.tick) then f
    else { f with turn := some x.turn, tick := x.tick }

/-- POST (R482): a frame of KIND POST decided. -/
def execPost (port sub : Fin 4) (f : RxFrame) (s : State) : Answer :=
  if numAt f.payload 1 1 = 1 then .next (s.judge port.val sub.val (s.stamped port.val f)) else .refused .notThisCommand

/-- PEEK (R482): a frame of KIND PEEK decided. -/
def execPeek (port sub : Fin 4) (f : RxFrame) (s : State) : Answer :=
  if numAt f.payload 1 1 = 2 then .next (s.judge port.val sub.val (s.stamped port.val f)) else .refused .notThisCommand

/-- HELLO (R482): a frame of KIND HELLO decided. -/
def execHello (port sub : Fin 4) (f : RxFrame) (s : State) : Answer :=
  if numAt f.payload 1 1 = 3 then .next (s.judge port.val sub.val (s.stamped port.val f)) else .refused .notThisCommand

/-- DROPPED_FRAME (R472, R474): a frame of no other row, or one that found the buffer full. -/
def execDroppedFrame (port _sub : Fin 4) (overflow : Bool) (s : State) : Answer :=
  if !s.portsOn then .next s
  else .next ((s.count port.val cRx).count port.val (if overflow then cDropOvf else cDropFmt))

/-! ### Neighbours (R472) -/

/-- An answer to a neighbour that asks for a sub-port's address (R472). -/
def State.neighbour (s : State) (port sub version target : Nat) (src : Addr) : State :=
  if !s.portsOn then s
  else
    let s := s.count port cRx
    let x := s.sub port sub
    if !x.set then s.count port cDropFmt
    else if x.ipver = version && x.ip = target then
      let me := toBytes 6 (Config.stationAddr (subNo port sub))
      let body := if version = 4 then
          [0, 1, 8, 0, 6, 4, 0, 2] ++ me ++ toBytes 4 x.ip ++ toBytes 6 src.eth ++ toBytes 4 src.ip
        else [136, 0, 0, 0, 0x60, 0, 0, 0] ++ toBytes 16 x.ip ++ [2, 1] ++ me
      s.send port sub 3 src body
    else s.count port cDropFmt

/-- ARP_REQUEST (R472). -/
def execArpRequest (port sub : Fin 4) (target : Nat) (src : Addr) (s : State) : Answer :=
  .next (s.neighbour port.val sub.val 4 target src)

/-- NEIGHBOR_SOLICITATION (R472). -/
def execNeighborSolicitation (port sub : Fin 4) (target : Nat) (src : Addr) (s : State) : Answer :=
  .next (s.neighbour port.val sub.val 6 target src)

/-! ### Transmission (R494, R495) -/

/-- A peek RESULT that begins transmission after its arrival turn is counted (R99, R113); INFO holds the admission turn
(R475). -/
def State.peekSent (s : State) (b : List Byte) : State :=
  if numAt b 16 4 = s.trn.turn % 2 ^ 32 then s
  else s.modPrs fun p => { p with count := satFld p.count 15 0 1 }

/-- FRAME_TRANSMIT (R495): a sub-port sends the first frame of the highest level that has one. -/
def execFrameTransmit (port sub : Fin 4) (s : State) : Answer :=
  let x := s.sub port.val sub.val
  if !x.up || !s.portsOn then .next s
  else match x.q1, x.q2, x.q3 with
    | (d, b) :: r, _, _ => .next ((s.modSub port.val sub.val fun x => { x with q1 := r }).emit (.frame port.val sub.val d b))
    | [], (d, b) :: r, _ =>
      .next (((s.modSub port.val sub.val fun x => { x with q2 := r }).peekSent b).emit (.frame port.val sub.val d b))
    | [], [], (d, b) :: r =>
      .next ((s.modSub port.val sub.val fun x => { x with q3 := r }).emit (.frame port.val sub.val d b))
    | [], [], [] => .next s

/-- The queued RESULTs of a sub-port whose link goes down are lost (R494). -/
def State.linkLost (s : State) (port sub : Nat) : State :=
  let x := s.sub port sub
  let s := s.modSub port sub fun x => { x with up := false, q1 := [], q2 := [], q3 := [] }
  (x.q1 ++ x.q2).foldl (fun s _ => s.count port cTxLost) s

/-- LINK_DOWN (R494). -/
def execLinkDown (port sub : Fin 4) (s : State) : Answer := .next (s.linkLost port.val sub.val)

/-! ### PTP (R47, R498 to R500) -/

/-- Whether a sub-port is the one that takes PTP, and PTP_CTL accepts a message (R472, R498, R500). -/
def State.ptpTakes (s : State) (port sub : Nat) (g : PtpMsg) : Bool :=
  (s.sub port sub).set && decide (port = fld s.trn.ctl 13 12) && decide (sub = 0) &&
    decide (g.domain = fld s.itk.ptp.ctl 63 56) && (if g.layer2 then bit s.itk.ptp.ctl 1 else bit s.itk.ptp.ctl 0)

/-- The state with the PTP unit changed. -/
def State.modPtp (s : State) (f : Ptp → Ptp) : State := s.modItk fun i => { i with ptp := f i.ptp }

/-- The PTP unit once the servo has an offset (R48, R499): the time counter follows the master, and with it the times it
has taken and the difference it has measured. The offset is the master's time less the device's (log 26). -/
def Ptp.follow (p : Ptp) (offset : Int) : Ptp :=
  { p with
    time := p.time + offset, ms := p.ms + offset, req := p.req.map fun r => (r.1, r.2 + offset)
    offset := offset, synced := true }

/-- The servo's offset taken (R48, R499): a generator disciplined by PTP has it as the phase error of its last tick 0, which
OFFS reports. -/
def State.servo (s : State) (offset : Int) : State :=
  let s := s.modPtp fun p => p.follow offset
  if s.trn.src = 0 && s.trn.disc = 1 && !s.trn.held && s.ticking then
    s.modTrn fun t => t.judge offset.natAbs (phaseOf (fld t.ctl 63 47 * 1000) s.itk.ptp.time)
  else s

/-- A PTP message from the master selected (R499), with what it does; every other is dropped. -/
def State.ptp (s : State) (port sub : Nat) (g : PtpMsg) (f : State → State) : State :=
  if !s.portsOn then s
  else
    let s := s.count port cRx
    if s.ptpTakes port sub g && s.itk.ptp.master = some g.sender then f s else s.count port cDropFmt

/-- The arrival of a message at the timestamp point, corrected by ILAT (R498). -/
def Ptp.arrival (p : Ptp) (stamp : Int) : Int := stamp - fld p.ctl 55 40

/-- The departure of a message, corrected by ELAT (R498). -/
def Ptp.departure (p : Ptp) (stamp : Int) : Int := stamp + fld p.ctl 39 24

/-- A Sync that left the master at t1 and arrived at t2 (R47, R499): the difference that it measures, and the offset that
the path delay leaves of it. -/
def State.syncAt (s : State) (t1 t2 : Int) : State :=
  let s := s.modPtp fun p => { p with ms := t2 - t1, awaits := none }
  s.servo (s.itk.ptp.delay - (t2 - t1))

/-- SYNC (R47, R499): a one-step Sync gives the offset; a two-step one waits for its Follow_Up. -/
def execSync (port sub : Fin 4) (g : PtpMsg) (s : State) : Answer :=
  .next (s.ptp port.val sub.val g fun s =>
    let t2 := s.itk.ptp.arrival g.stamp
    if g.twoStep then s.modPtp fun p => { p with awaits := some (g.seq, t2, g.corr) } else s.syncAt (g.origin + g.corr) t2)

/-- FOLLOW_UP (R47, R499): the departure of the Sync of its sequence number. -/
def execFollowUp (port sub : Fin 4) (g : PtpMsg) (s : State) : Answer :=
  .next (s.ptp port.val sub.val g fun s => match s.itk.ptp.awaits with
    | some (sq, t2, corr) => if sq = g.seq then s.syncAt (g.origin + g.corr + corr) t2 else s
    | none => s)

/-- DELAY_RESP (R47, R499): the interval of Delay_Req, and the path delay from the end-to-end exchange whose Delay_Req it
answers. -/
def execDelayResp (port sub : Fin 4) (g : PtpMsg) (s : State) : Answer :=
  .next (s.ptp port.val sub.val g fun s => s.modPtp fun p =>
    let p := { p with interval := g.interval }
    match p.req with
    | some (sq, t3) =>
      if sq = g.seq then { p with req := none, delay := (p.ms + (g.origin - g.corr - t3)) / 2 } else p
    | none => p)

/-- Whether an Announce data set comes before another in the default best master clock algorithm (R499): the first
difference in its order decides; of one grandmaster the fewer steps, then the lower sender. -/
def ptpPrecedes (a b : PtpData) (sa sb : Nat) : Bool :=
  let key (d : PtpData) : List Nat := [d.prio1, d.cls, d.accuracy, d.variance, d.prio2, d.ident]
  if a.ident = b.ident then decide (a.steps < b.steps) || (decide (a.steps = b.steps) && decide (sa < sb))
  else decide (key a < key b)

/-- Whether a data set comes before the device's own, whose clockClass is 255 (R499) and whose priority 1 is the profile's
128 (PRESUMED, log 26). -/
def ptpOverOwn (d : PtpData) : Bool := decide (d.prio1 < 128) || (decide (d.prio1 = 128) && decide (d.cls < 255))

/-- The master among the senders heard (R499). -/
def Ptp.best (p : Ptp) : Option Nat :=
  ((p.heard.filter fun h => ptpOverOwn h.2).foldl (fun acc h => match acc with
    | none => some h
    | some m => if ptpPrecedes h.2 m.2 h.1 m.1 then some h else some m) none).map Prod.fst

/-- ANNOUNCE (R499): the sender's data set is kept, senders that have fallen silent leave, and the best master is
selected. -/
def execAnnounce (port sub : Fin 4) (g : PtpMsg) (s : State) : Answer :=
  if !s.portsOn then .next s
  else
    let s := s.count port.val cRx
    if !s.ptpTakes port.val sub.val g then .next (s.count port.val cDropFmt)
    else .next (s.modPtp fun p =>
      let p := { p with heard := (p.heard.filter fun h => h.1 ≠ g.sender && !g.gone.contains h.1) ++ [(g.sender, g.data)] }
      if p.best = p.master then p else { p with master := p.best, awaits := none, req := none })

/-- DELAY_REQ (R47, R498, R499): the servo sends a Delay_Req; how long after the last tick 0 it passes its timestamp point is
open (log 4). It is held in the queue as its message type and sequence number. -/
def execDelayReq (s : State) : Answer :=
  if s.itk.ptp.master.isSome then
    let sq := s.itk.ptp.seq
    let stamp := s.itk.ptp.time + Config.freeNat s.fresh
    let s := s.draw.modPtp fun p => { p with seq := (sq + 1) % 2 ^ 16, req := some (sq, p.departure stamp) }
    .next (s.send (fld s.trn.ctl 13 12) 0 3 ⟨0x011B19000000, 0xE0000181, 319⟩ ([1] ++ toBytes 2 sq))
  else .next s

end Sys2Proof.Machine
end

