-- ==== Sys2Proof/Machine/Vcs.lean ====
section
/-! DEFINITION. Device space outside Vat Control Space (R25, R63, R113, R136, R492, R500, R534, R556), and the rows of
Vat Control Space (R330, R331, R412, R511 to R513, R518). -/

namespace Sys2Proof.Machine

/-! ### Device space outside the windows -/

/-- The first address of device space (R23). -/
def devBase : Nat := 0xF00000000000

/-- PWR_STATUS (R556): CAPPING and THROT follow the caps. -/
def State.pwrStatus (s : State) : W64 :=
  let p := s.pwr
  setBit (setBit p.status 1 (decide (fld p.status 43 32 < fld p.bound 47 32))) 2
    (decide (fld p.status 31 20 < fld p.bound 47 32))

/-- MC_INFO (R534). -/
def State.mcInfo (s : State) (i : Nat) : W64 :=
  setFld (setFld (s.mem.mcs.get i {}).info 63 56 (if i < 4 then 1 else 2)) 55 52 (if i < 4 then i else i - 4)

/-- MC_SCRUB (R534); the image defaults are 60 and 1,440 minutes. -/
def State.mcScrub (s : State) (i : Nat) : W64 :=
  (s.mem.mcs.get i {}).scrub.getD (BitVec.ofNat 64 ((if i < 4 then 60 else 1440) * 2 ^ 16 + 1))

/-- The controller of a device space offset, and the offset in its block (R534). -/
def mcAt (x : Nat) : Option (Nat × Nat) :=
  if 0x1300000 ≤ x && x < 0x1400000 then some ((x - 0x1300000) / 0x40000, x % 0x40000)
  else if 0x1400000 ≤ x && x < 0x1500000 then some (4 + (x - 0x1400000) / 0x20000, x % 0x20000)
  else none

/-- TRN_NOW (R63). -/
def State.trnNow (s : State) : W64 := BitVec.ofNat 64 (s.trn.turn * 2 ^ 16 + s.trn.tick)

/-- A device space register outside the windows as it reads, by its offset (R32). -/
def State.blockRead (s : State) (x : Nat) : W64 :=
  if x = 0x1000000 then s.trn.ctl
  else if x = 0x1000008 then s.trn.status
  else if x = 0x1000010 then s.trnNow
  else if x = 0x1100000 then s.itk.ctl
  else if x = 0x1100008 then s.itk.weight
  else if x = 0x1100010 then s.itk.status
  else if 0x1100000 ≤ x && x < 0x1200000 && 0x100 ≤ x % 0x40000 && x % 0x40000 ≤ 0x150 then
    s.itk.cnt.get (16 * ((x - 0x1100000) / 0x40000) + (x % 0x40000 - 0x100) / 8) 0
  else if x = 0x1200000 then s.prs.ctl
  else if x = 0x1200008 then s.prsStatus
  else if x = 0x1200010 then s.prs.count
  else if x = 0x1200018 then s.prs.cap
  else if x = 0x1200020 then s.prs.tune
  else if x = 0x1200028 then s.prs.plcCtl
  else if x = 0x1200030 then s.prs.plcVmask
  else if x = 0x1200038 then s.prs.plcStatus
  else if 0x1200100 ≤ x && x ≤ 0x1200138 then s.prs.stats.get ((x - 0x1200100) / 8) 0
  else if x = 0x1500000 then s.itk.ptp.ctl
  else if x = 0x1600000 then s.pwr.ctl
  else if x = 0x1600008 then s.pwr.bound
  else if x = 0x1600010 then s.pwr.pinmask
  else if x = 0x1600018 then s.pwrStatus
  else if x = 0x1600020 then s.pwr.avs
  else if x = 0x1600028 then s.pwr.srd
  else if x = 0x1700000 then s.via.rgnLdg
  else if x = 0x1700008 then s.via.rgnFwh
  else if x = 0x1700010 then s.via.rgnFwd
  else if x = 0x1700018 then (if s.via.saStat then 1 else 0)
  else match mcAt x with
    | none => 0
    | some (i, o) =>
      let m := s.mem.mcs.get i {}
      match o with
      | 0x00 => s.mcInfo i
      | 0x08 => m.stat
      | 0x10 => m.ce
      | 0x18 => m.ue
      | 0x20 => m.uePa
      | 0x28 => s.mcScrub i
      | _ => 0

/-- A read of device space (R32, R420, R513): the windows, then the blocks. -/
def State.devRead (s : State) (who : Who) (addr : Nat) (mode : Option Nat) : State × W64 :=
  let x := addr - devBase
  if x < 0x510000 then s.vcsRead who (x / 0x10000) (x % 0x10000) mode
  else (s, if x % 8 = 0 then s.blockRead x else 0)

/-- ADM_CTL (R492). -/
def lAdm : Layout := layout [(63, 11), (8, 4), (0, 0)] [] [(10, 9), (3, 1)]
/-- PRS_CTL (R113). -/
def lPrs : Layout := layout [(63, 48), (39, 14)] [] [(47, 40), (13, 0)]
/-- PRS_TUNE (R136). -/
def lTune : Layout := layout [(63, 40), (37, 32), (3, 0)] [] [(39, 38), (31, 4)]
/-- PLC_CTL (R136). -/
def lPlc : Layout := layout [(63, 16), (7, 4), (0, 0)] [] [(15, 8), (3, 1)]
/-- PWR_AVS (R556). -/
def lAvs : Layout := layout [(63, 8)] [] [(7, 0)]
/-- SRD_ADAPT (R556). -/
def lSrd : Layout := layout [(31, 24), (5, 0)] [] [(63, 32), (23, 6)]

/-- Whether a number of MHz is one a loop takes (R556). -/
def mhzOk (f : Nat) : Bool := f % 25 = 0

/-- Whether a value of a policy register is not refused (R113, R136, R492, R552, R556). -/
def State.policyOk (s : State) (x : Nat) (w : W64) : Bool :=
  if x = 0x1100000 then
    decide (1 ≤ fld w 63 43) && decide (fld w 63 43 ≤ 1048576) && decide (fld w 30 19 ≤ fld w 42 31) &&
      decide (1 ≤ fld w 8 4) && decide (fld w 8 4 ≤ 39)
  else if x = 0x1200000 then decide (fld w 39 36 ≤ 4) && decide (fld w 15 14 ≤ 1)
  else if x = 0x1200020 then
    decide (fld w 63 56 ≠ 0) && decide (fld w 47 40 ≠ 0) && decide (1 ≤ fld w 2 0) &&
      decide (fld w 2 0 ≤ fld s.prs.cap 2 0)
  else if x = 0x1200028 then
    decide (fld w 63 48 ≠ 0) && decide (16 ≤ fld w 23 16) && decide (fld w 7 4 ≤ 8)
  else if x = 0x1600000 then
    decide (100 ≤ fld w 63 52) && decide (fld w 63 52 ≤ s.tdp) && decide (85 ≤ fld w 51 44) &&
      decide (fld w 51 44 ≤ 110) && decide (1 ≤ fld w 43 40) && decide (fld w 43 40 ≤ 8) && decide (1 ≤ fld w 39 36)
  else if x = 0x1600008 then
    let lo := fld w 63 48
    let hi := fld w 47 32
    let pin := fld w 31 16
    decide (1200 ≤ lo) && decide (lo ≤ hi) && decide (hi ≤ 1800) && decide (1200 ≤ pin) && decide (pin ≤ s.allclk) &&
      mhzOk lo && mhzOk hi && mhzOk pin
  else if x = 0x1600020 then
    decide (20 ≤ fld w 63 48) && decide (fld w 63 48 ≤ 1000) && decide (620 ≤ fld w 47 32) &&
      decide (fld w 47 32 ≤ 920) && decide (fld w 47 32 ≤ fld w 31 16) && decide (fld w 31 16 ≤ 920) &&
      decide (1 ≤ fld w 15 8) && decide (fld w 15 8 ≤ 20)
  else if x = 0x1600028 then decide (1 ≤ fld w 31 24)
  else true

/-- The copies that Viari makes of the power registers in every vat controller (R517, R556). -/
def State.copyPower (s : State) : State :=
  let w (s : State) (off : Nat) (v : W64) := s.vcsWrite .viari 80 off v
  w (w (w s 0xB008 s.pwr.ctl) 0xB010 s.pwr.bound) 0xB018 s.pwr.pinmask

/-- A write of a policy register whose value is not refused (R452). -/
def State.policyWrite (s : State) (x : Nat) (w : W64) : State :=
  let adm (s : State) (hit : Bool) : State :=
    if hit then s.modItk fun i => { i with status := setBit i.status 0 true } else s
  let prs (s : State) (hit : Bool) : State :=
    if hit then s.modPrs fun p => { p with status := setBit p.status 5 true } else s
  let pwr (s : State) (hit : Bool) : State :=
    if hit then s.modPwr fun p => { p with status := setBit p.status 5 true } else s
  match x with
  | 0x1100000 => adm (s.modItk fun i => { i with ctl := lAdm.write i.ctl w }) (lAdm.hit w)
  | 0x1100008 =>
    let l := layout [(31, 0)] [] [(63, 32)]
    adm (s.modItk fun i => { i with weight := l.write i.weight w }) (l.hit w)
  | 0x1100010 =>
    let l := layout [] [(0, 0)] [(59, 56), (13, 1)]
    adm (s.modItk fun i => { i with status := l.write i.status w }) (l.hit w)
  | 0x1200000 => prs (s.modPrs fun p => { p with ctl := lPrs.write p.ctl w }) (lPrs.hit w)
  | 0x1200008 =>
    let l := layout [] [(5, 5), (2, 2)] [(11, 6)]
    prs (s.modPrs fun p => { p with status := l.write p.status w }) (l.hit w)
  | 0x1200018 => prs s ((layout [] [] [(23, 3)]).hit w)
  | 0x1200020 => prs (s.modPrs fun p => { p with tune := lTune.write p.tune w }) (lTune.hit w)
  | 0x1200028 => prs (s.modPrs fun p => { p with plcCtl := lPlc.write p.plcCtl w }) (lPlc.hit w)
  | 0x1200030 => s.modPrs fun p => { p with plcVmask := w }
  | 0x1600000 => (pwr (s.modPwr fun p => { p with ctl := lPwrCtl.write p.ctl w }) (lPwrCtl.hit w)).copyPower
  | 0x1600008 => (pwr (s.modPwr fun p => { p with bound := lPwrBound.write p.bound w }) (lPwrBound.hit w)).copyPower
  | 0x1600010 => (s.modPwr fun p => { p with pinmask := w }).copyPower
  | 0x1600018 =>
    let l := layout [] [(5, 3)] [(11, 6)]
    pwr (s.modPwr fun p => { p with status := l.write p.status w }) (l.hit w)
  | 0x1600020 => pwr (s.modPwr fun p => { p with avs := lAvs.write p.avs w }) (lAvs.hit w)
  | 0x1600028 => pwr (s.modPwr fun p => { p with srd := lSrd.write p.srd w }) (lSrd.hit w)
  | _ => s

/-- Whether an offset is a register that POLICY_WRITE accepts (R452). -/
def isPolicy (x : Nat) : Bool :=
  [0x1100000, 0x1100008, 0x1100010, 0x1200000, 0x1200020, 0x1200028, 0x1200030, 0x1600000, 0x1600008, 0x1600010,
    0x1600018, 0x1600020, 0x1600028].contains x

/-- Whether an offset lies among the registers that Viari writes only through POLICY_WRITE: the admission registers and the power
registers (R492, R556). -/
def policyOnly (x : Nat) : Bool :=
  (decide (0x1100000 ≤ x) && decide (x < 0x1200000)) || (decide (0x1600000 ≤ x) && decide (x < 0x1700000))

/-- Modes in which Viari writes configuration registers (R25, R45, R500, R534). -/
def State.cfgMode (s : State) : Bool := s.dev.mode = 2 || s.dev.mode = 3

/-- Whether a TRN_CTL image has a reserved encoding (R44, R46, R58). -/
def trnReserved (w : W64) : Bool := decide (fld w 5 4 = 3) || decide (1 < fld w 15 14)

/-- Whether PERIOD_US breaks R42. -/
def periodBad (w : W64) : Bool :=
  let p := fld w 63 47
  decide (p < 250) || decide (64000 < p) || (decide (fld w 5 4 = 0) && decide (fld w 7 6 ≠ 0) && decide (1000000 % p ≠ 0))

/-- TRN_CTL (R63). -/
def lTrn : Layout := layout [(63, 47), (43, 12), (7, 4), (1, 0)] [] [(46, 44), (11, 8), (3, 2)]

/-- A write of a Turner register by Viari (R45, R63). RUN set starts turns as an entry to a run mode does, with
its START record (R64, R502). -/
def State.trnWrite (s : State) (o : Nat) (w : W64) : State :=
  let flag (s : State) (l : Layout) : State :=
    if l.hit w then s.modTrn fun t => { t with status := setBit t.status 10 true } else s
  match o with
  | 0x00 =>
    if bit s.trn.ctl 0 || !s.cfgMode || trnReserved w || periodBad w then s
    else
      let s := flag (s.modTrn fun t => { t with ctl := lTrn.write t.ctl w }) lTrn
      if bit w 0 then (s.runTurns s.firstTurn).startRecord 0 s.firstTurn else s
  | 0x08 =>
    let l := layout [] [(10, 10), (8, 4)] [(18, 11)]
    flag (s.modTrn fun t => { t with status := l.write t.status w }) l
  | 0x10 => if bit s.trn.ctl 0 then s else s.modTrn fun t => { t with turn := fld w 63 16, first := true }
  | _ => s

/-- Whether a valid window register describes memory it may (R26): 0 ledger, 1 HBM3, 2 DDR5. -/
def State.rgnOk (s : State) (which : Nat) (w : W64) : Bool :=
  let b := rgnBase w
  let n := rgnSize w
  !bit w 0 || match which with
    | 0 => decide (ddrBase ≤ b) && decide (b + n ≤ ddrBase + s.mem.ddrGib * 2 ^ 30) && decide (fld w 63 44 ≤ 262143)
    | 1 => decide (b + n ≤ 2 ^ 36)
    | _ => decide (ddrBase ≤ b) && decide (b + n ≤ ddrBase + s.mem.ddrGib * 2 ^ 30)

/-- Whether two valid windows overlap (R26). -/
def rgnOver (a b : W64) : Bool :=
  bit a 0 && bit b 0 && decide (rgnBase a < rgnBase b + rgnSize b) && decide (rgnBase b < rgnBase a + rgnSize a)

/-- Whether three window values are a configuration Viari accepts (R26). -/
def State.rgnsOk (s : State) (l h d : W64) : Bool :=
  s.rgnOk 0 l && s.rgnOk 1 h && s.rgnOk 2 d && !rgnOver l h && !rgnOver l d && !rgnOver h d

/-- A region window register (R25). -/
def lRgn : Layout := layout [(63, 44), (38, 12), (0, 0)] [] [(43, 39), (11, 1)]

/-- RGN_LDG put (R25); a window put in force has its wheels at their first homes (R115). -/
def State.putLedger (s : State) (w : W64) : State :=
  let s := s.finishRelease.modVia fun v => { v with rgnLdg := w }
  if bit w 0 then s.modPrs fun p => { p with home := [], wheels := [] } else s

/-- A write of a system agent register by Viari (R25, R633): of a region window in Control-Only or Standby alone. R26 has
Viari refuse a command whose windows are no configuration; a write of its own is taken as any other, and that it writes only
what R26 permits is its own affair (log 40). -/
def State.saWrite (s : State) (o : Nat) (w : W64) : State :=
  let flag (s : State) (l : Layout) : State := if l.hit w then s.modVia fun v => { v with saStat := true } else s
  let put (f : State → State) : State := if s.cfgMode then flag (f s) lRgn else s
  match o with
  | 0x00 => put fun s => s.putLedger (lRgn.write s.via.rgnLdg w)
  | 0x08 => put fun s => s.modVia fun v => { v with rgnFwh := lRgn.write v.rgnFwh w }
  | 0x10 => put fun s => s.modVia fun v => { v with rgnFwd := lRgn.write v.rgnFwd w }
  | 0x18 => flag (s.modVia fun v => { v with saStat := v.saStat && !bit w 0 }) (layout [] [] [(63, 1)])
  | _ => s

/-- A write of a memory controller register by Viari (R534). -/
def State.mcWrite (s : State) (i o : Nat) (w : W64) : State :=
  let flag (s : State) (l : Layout) : State :=
    if l.hit w then s.modMc i fun m => { m with stat := setBit m.stat 0 true } else s
  if !s.cfgMode then s
  else match o with
    | 0x00 => flag s (layout [] [] [(15, 1)])
    | 0x08 =>
      let l := layout [] [(6, 4), (0, 0)] [(31, 8), (2, 1)]
      flag (s.modMc i fun m => { m with stat := l.write m.stat w }) l
    | 0x20 => flag s (layout [] [] [(63, 48), (5, 0)])
    | 0x28 =>
      let l := layout [(31, 16), (0, 0)] [] [(63, 32), (15, 1)]
      if fld w 31 16 < 15 then s else flag (s.modMc i fun m => { m with scrub := some (l.write (s.mcScrub i) w) }) l
    | _ => s

/-- A device space write by Viari (R9, R10, R32). The block that holds PTP_CTL has no RSVWR bit, so that a 1 written to its
reserved bits is ignored and shows nowhere (log 40). -/
def State.devWrite (s : State) (addr : Nat) (w : W64) : State :=
  let x := addr - devBase
  if addr < devBase || x % 8 ≠ 0 then s
  else if x < 0x510000 then s.vcsWrite .viari (x / 0x10000) (x % 0x10000) w
  else if x < 0x1000000 then s
  else if x < 0x1100000 then s.trnWrite (x - 0x1000000) w
  else if x = 0x1500000 then
    if s.cfgMode then s.modPtp fun p => { p with ctl := (layout [(63, 24), (1, 0)] [] []).write p.ctl w } else s
  else if 0x1700000 ≤ x then s.saWrite (x - 0x1700000) w
  else match mcAt x with
    | some (i, o) => s.mcWrite i o w
    | none => if policyOnly x || !s.policyOk x w then s else s.policyWrite x w

/-! ### The rows -/

/-- Whether a function can be reached over the link (R418, R627). -/
def State.fnHere (s : State) (f : Nat) : Bool := s.host.perst && s.host.linkUp && (f = 0 || decide (f ≤ s.host.vfs))

/-- Whether a function takes BAR writes (R441, R627). -/
def State.fnLive (s : State) (f : Nat) : Bool := s.fnHere f && !(s.fn f).flr

/-- A write of Vat Control Space that a requester gives: the host's comes through BAR2 of function 0, and is discarded while
that function cannot be reached or is in reset (R420, R441, R627). -/
def State.rowWrite (s : State) (who : Who) (n off : Nat) (w : W64) : State :=
  if who = .host && !s.fnLive 0 then s else s.vcsWrite who n off w

/-- A row of TLBI_CMD for one OP through a vat's unicast window (R330). -/
def State.tlbiRow (s : State) (op : Nat) (v : VatId) (who : Who) (w : W64) : Answer :=
  if fld w 2 0 = op then .next (s.rowWrite who v.val 0x9818 w) else .refused .notThisCommand

/-- TLBI_VA (R330). -/
def execTlbiVa (vat : VatId) (who : Who) (w : W64) (s : State) : Answer := s.tlbiRow 1 vat who w

/-- TLBI_ROOT (R330). -/
def execTlbiRoot (vat : VatId) (who : Who) (w : W64) (s : State) : Answer := s.tlbiRow 2 vat who w

/-- TLBI_FRAME (R330). -/
def execTlbiFrame (vat : VatId) (who : Who) (w : W64) (s : State) : Answer := s.tlbiRow 3 vat who w

/-- TLBI_ALL (R330). -/
def execTlbiAll (vat : VatId) (who : Who) (w : W64) (s : State) : Answer := s.tlbiRow 4 vat who w

/-- TLBI_COMPLETE (R331). -/
def execTlbiComplete (vat : VatId) (s : State) : Answer := .next (s.tlbiDone vat.val)

/-- ENG_SIGNAL (R518). -/
def execEngSignal (e : EngId) (who : Who) (w : W64) (s : State) : Answer :=
  .next (s.rowWrite who (vatOf e.val) (0x800 * slotOf e.val + 0x010) w)

/-- SRAM_DATA (R511): an access by Viari, a write or a read, which waits for Viari's writes (R515). -/
def execSramData (e : EngId) (w : Option W64) (s : State) : Answer :=
  let off := 0x800 * slotOf e.val + 0x308
  match w with
  | some w => .next (s.vcsWrite .viari (vatOf e.val) off w)
  | none =>
    if s.vcsBusy .viari then .next s
    else
      let r := s.vcsRead .viari (vatOf e.val) off none
      .next (r.1.emit (.value .viari r.2))

/-- RN_PDATA2 (R412): a patch RAM word is stored. -/
def execRnPdata2 (e : EngId) (w : W64) (s : State) : Answer :=
  .next (s.vcsWrite .viari (vatOf e.val) (0x800 * slotOf e.val + 0x218) w)

/-- VCS_GROUP_WRITE (R512). -/
def execVcsGroupWrite (who : Who) (win : Window) (off : Nat) (w : W64) (s : State) : Answer :=
  if off < 0x10000 then .next (s.rowWrite who (winNo win) off w) else .refused .notThisCommand

/-- VCS_GROUP_READ (R513): the value goes to the requester. While an earlier write of the requester is not complete, the read
waits: the row changes nothing and is given again (R515, log 33). -/
def execVcsGroupRead (who : Who) (win : Window) (off : Nat) (s : State) : Answer :=
  if off < 0x10000 then
    if s.vcsBusy who || (who = .host && !s.fnHere 0) then .next s else
    let r := s.vcsRead who (winNo win) off none
    .next (r.1.emit (.value who r.2))
  else .refused .notThisCommand

end Sys2Proof.Machine
end

