-- ==== Sys2Proof/Machine/HostIf.lean ====
section
/-! DEFINITION. The host interface: BAR0, mailboxes, command rings, the event ring, MSI-X, function-level reset, PERST_N
(R418 to R442, R627). -/

namespace Sys2Proof.Machine

/-! ### Functions -/

/-- FN_INFO.VREADY (R427); on the host load path only the PF's (R579). -/
def State.vready (s : State) (f : Nat) : Bool :=
  decide (2 ≤ s.dev.mode) && (f = 0 || !s.via.fw.hostLoad || s.via.fw.started)

/-- FN_INFO (R427). -/
def State.fnInfo (s : State) (f : Nat) : W64 :=
  BitVec.ofNat 64 (s.dev.mode * 2 ^ 60 + (if s.vready f then 2 ^ 59 else 0) + (if f = 0 then 0 else 2 ^ 58) +
    f * 2 ^ 55 + 64 * 2 ^ 40 + 8 * 2 ^ 32 + 64 * 2 ^ 24)

/-- FN_STAT.RSVWR when a condition holds (R10). -/
def State.fnFlag (s : State) (f : Nat) (b : Bool) : State :=
  if b then s.modFn f fun x => { x with stat := setBit x.stat 0 true } else s

/-- A mailbox. -/
def State.mbox (s : State) (f m : Nat) : Mbx := (s.fn f).mbx.get m {}

/-! ### Mailboxes (R425 to R427) -/

/-- A doorbell (R426, R427). -/
def State.doorbell (s : State) (f m : Nat) (w : W64) : State :=
  let x := s.mbox f m
  let st := fld x.stat 2 0
  let s := s.fnFlag f (decide (512 ≤ w.toNat))
  if !bit w 8 then s
  else if st = 1 || st = 2 || !s.vready f then s.modMbx f m fun x => { x with stat := setBit x.stat 7 true }
  else
    let c : Cmd := { id := s.via.nextId, fn := f, source := m, bytes := readBytes x.cmd 0 64 }
    let s := s.modMbx f m fun x =>
      { x with rsp := List.replicate 64 0, stat := setFld (setFld x.stat 63 56 (fld w 7 0)) 2 0 1 }
    s.modVia fun v => { v with nextId := v.nextId + 1, queue := v.queue ++ [c] }

/-- A write into a mailbox (R425). -/
def State.mbxWrite (s : State) (f m o : Nat) (w : W64) : State :=
  let x := s.mbox f m
  if o < 0x40 then
    let st := fld x.stat 2 0
    s.modMbx f m fun x =>
      { x with
        cmd := writeBytes x.cmd o (toBytes 8 w.toNat)
        stat := if st = 1 || st = 2 then setBit x.stat 6 true else x.stat }
  else if o = 0x80 then s.doorbell f m w
  else if o = 0x88 then
    let l := layout [] [(7, 6)] [(55, 8), (5, 3)]
    (s.modMbx f m fun x => { x with stat := l.write x.stat w }).fnFlag f (l.hit w)
  else if o = 0x90 then
    let l := layout [(7, 7), (5, 0)] [] [(63, 8), (6, 6)]
    (s.modMbx f m fun x => { x with ctl := some (l.write (x.ctlOf m) w) }).fnFlag f (l.hit w)
  else s

/-! ### Rings (R428 to R433) -/

/-- A write of RING_CTL (R428, R429, R432). -/
def State.ringCtl (s : State) (f n : Nat) (w : W64) : State :=
  let r := (s.fn f).ring n
  let c := r.ctlOf n
  let l := layout [(63, 48), (23, 16), (13, 8), (1, 0)] [] [(47, 24), (15, 14), (7, 2)]
  let s := s.fnFlag f (l.hit w)
  let sq := fld w 19 16
  let cq := fld w 23 20
  if bit c 0 then
    let s := s.fnFlag f (decide (fld w 23 16 ≠ fld c 23 16))
    let new := setFld (l.write c w) 23 16 (fld c 23 16)
    s.modRing f n fun r => if bit w 0 then { r with ctl := some new } else Ring.stop { r with ctl := some new } n
  else if !bit w 0 then s.modRing f n fun r => { r with ctl := some (l.write c w) }
  else if 4 ≤ sq && 4 ≤ cq && sq ≤ cq then
    s.modRing f n fun r => Ring.settle
      { r with ctl := some (l.write c w), sqPi := 0, sqCi := 0, cqPi := 0, cqCi := 0, phase := true } n
  else s.modRing f n fun r => { r with ctl := some (setBit (l.write c w) 0 false), stat := setBit r.stat 1 true }

/-- A write of SQ_PI (R428, R430, R437): the commands it covers are accepted. -/
def State.sqPi (s : State) (f n : Nat) (w : W64) : State :=
  let r := (s.fn f).ring n
  let c := r.ctlOf n
  let size := 2 ^ fld c 19 16
  let pi := fld w 15 0
  let s := s.fnFlag f (decide (2 ^ 16 ≤ w.toNat))
  let more := if bit c 0 then (pi % size + size - r.sqPi % size) % size else 0
  let id := s.via.nextId
  let s := s.modVia fun v => { v with nextId := v.nextId + more }
  s.modRing f n fun r => { r with sqPi := pi, order := r.order ++ (List.range more).map (id + ·) }

/-- A write of CQ_CI (R431): completions held for room are written. -/
def State.cqCi (s : State) (f n : Nat) (w : W64) : State :=
  State.flushRing f n 16
    ((s.modRing f n fun r => { r with cqCi := fld w 15 0 }).fnFlag f (decide (2 ^ 16 ≤ w.toNat)))

/-- A write into a ring block (R428). -/
def State.ringWrite (s : State) (f n o : Nat) (w : W64) : State :=
  let r := (s.fn f).ring n
  let en := bit (r.ctlOf n) 0
  let base := layout [(63, 12)] [] [(11, 0)]
  match o with
  | 0x00 =>
    if en then s.fnFlag f true
    else (s.modRing f n fun r => { r with sqBase := base.write r.sqBase w }).fnFlag f (base.hit w)
  | 0x08 =>
    if en then s.fnFlag f true
    else (s.modRing f n fun r => { r with cqBase := base.write r.cqBase w }).fnFlag f (base.hit w)
  | 0x10 => s.ringCtl f n w
  | 0x18 => s.sqPi f n w
  | 0x20 => s.fnFlag f (decide (2 ^ 16 ≤ w.toNat))
  | 0x28 => s.fnFlag f (decide (2 ^ 16 ≤ w.toNat))
  | 0x30 => s.cqCi f n w
  | 0x38 =>
    let l := layout [] [(3, 1)] [(63, 16), (7, 4)]
    (s.modRing f n fun r => { r with stat := l.write r.stat w }).fnFlag f (l.hit w)
  | _ => s

/-! ### The event ring (R434) -/

/-- A write of EVQ_CTL (R434). -/
def State.evqCtl (s : State) (f : Nat) (w : W64) : State :=
  let c := (s.fn f).evqCtl
  let l := layout [(47, 40), (19, 16), (13, 8), (1, 0)] [] [(63, 48), (39, 20), (15, 14), (7, 2)]
  let s := s.fnFlag f (l.hit w)
  if bit c 0 then
    (s.modFn f fun x => { x with evqCtl := setFld (l.write c w) 19 16 (fld c 19 16) }).fnFlag f
      (decide (fld w 19 16 ≠ fld c 19 16))
  else if !bit w 0 then s.modFn f fun x => { x with evqCtl := l.write c w }
  else if 4 ≤ fld w 19 16 then
    s.modFn f fun x => { x with evqCtl := l.write c w, evqPi := 0, evqCi := 0, evqPhase := true }
  else (s.modFn f fun x => { x with evqCtl := setBit (l.write c w) 0 false }).fnFlag f true

/-! ### BAR0 (R421) -/

/-- A BAR0 write (R421, R440, R441). -/
def State.bar0Write (s : State) (f off : Nat) (w : W64) : State :=
  if !s.fnLive f || off % 8 ≠ 0 then s
  else if off < 0x4000 then s.mbxWrite f (off / 0x100) (off % 0x100) w
  else if off = 0x4000 then s.fnFlag f ((layout [] [] [(54, 48), (23, 0)]).hit w)
  else if off = 0x4008 then
    let l := layout [] [(3, 2), (0, 0)] [(31, 4), (1, 1)]
    (s.modFn f fun x => { x with stat := l.write x.stat w }).fnFlag f (l.hit w)
  else if off = 0x4010 then
    if bit (s.fn f).evqCtl 0 then s.fnFlag f true
    else
      let l := layout [(63, 12)] [] [(11, 0)]
      (s.modFn f fun x => { x with evqBase := l.write x.evqBase w }).fnFlag f (l.hit w)
  else if off = 0x4018 then s.evqCtl f w
  else if off = 0x4020 then s.fnFlag f (decide (2 ^ 16 ≤ w.toNat))
  else if off = 0x4028 then
    (s.modFn f fun x => { x with evqCi := fld w 15 0 }).fnFlag f (decide (2 ^ 16 ≤ w.toNat))
  else if 0x4100 ≤ off && off < 0x4300 then s.ringWrite f ((off - 0x4100) / 0x40) ((off - 0x4100) % 0x40) w
  else s

/-- A BAR0 register or area as it reads (R421). -/
def State.bar0Read (s : State) (f off : Nat) : W64 :=
  let x := s.fn f
  if off < 0x4000 then
    let m := x.mbx.get (off / 0x100) {}
    let o := off % 0x100
    if o < 0x40 then BitVec.ofNat 64 (ofBytes (readBytes m.cmd o 8))
    else if o < 0x80 then BitVec.ofNat 64 (numAt m.rsp (o - 0x40) 8)
    else if o = 0x88 then m.stat
    else if o = 0x90 then m.ctlOf (off / 0x100)
    else 0
  else if off = 0x4000 then s.fnInfo f
  else if off = 0x4008 then x.stat
  else if off = 0x4010 then x.evqBase
  else if off = 0x4018 then x.evqCtl
  else if off = 0x4020 then BitVec.ofNat 64 x.evqPi
  else if off = 0x4028 then BitVec.ofNat 64 x.evqCi
  else if 0x4100 ≤ off && off < 0x4300 then
    let n := (off - 0x4100) / 0x40
    let r := x.ring n
    match (off - 0x4100) % 0x40 with
    | 0x00 => r.sqBase
    | 0x08 => r.cqBase
    | 0x10 => r.ctlOf n
    | 0x18 => BitVec.ofNat 64 r.sqPi
    | 0x20 => BitVec.ofNat 64 r.sqCi
    | 0x28 => BitVec.ofNat 64 r.cqPi
    | 0x30 => BitVec.ofNat 64 r.cqCi
    | 0x38 => r.stat
    | _ => 0
  else 0

/-! ### MSI-X (R436) -/

/-- Pending messages of a function that nothing masks any more are sent (R436). -/
def State.msixFlush (s : State) (f : Nat) : State :=
  (List.range 64).foldl (fun s v =>
    let x := s.fn f
    if x.msixOn && bit x.pend v && !bit x.mask v && !x.fmask then
      (s.modFn f fun x => { x with pend := setBit x.pend v false }).msix f v
    else s) s

/-- A vector's mask put. -/
def State.vecMask (s : State) (f vec : Nat) (b : Bool) : State :=
  (s.modFn f fun x => { x with mask := setBit x.mask vec b }).msixFlush f

/-- A write into the MSI-X table (R436): at a multiple of 8 the 8 bytes of the message address, or of the message data and
vector control; at another multiple of 4 the 4 bytes there (log 29). -/
def State.tableWrite (s : State) (f off : Nat) (w : W64) : State :=
  let v := off / 16
  let put (s : State) (g : W64 × BitVec 32 → W64 × BitVec 32) : State :=
    s.modFn f fun x => { x with vecs := x.vecs.put v (g (x.vec v)) }
  match off % 16 with
  | 0 => put s fun p => (setFld w 1 0 0, p.2)
  | 4 => put s fun p => (setFld p.1 63 32 (fld w 31 0), p.2)
  | 8 => (put s fun p => (p.1, w.setWidth 32)).vecMask f v (bit w 32)
  | 12 => s.vecMask f v (bit w 0)
  | _ => s

/-- 8 bytes of BAR4 as they read (R419, R436): the MSI-X table, and the pending bit array at 0x2000. -/
def State.bar4Read (s : State) (f off : Nat) : W64 :=
  let x := s.fn f
  let v := off / 16
  if off = 0x2000 then x.pend
  else if 0x400 ≤ off then 0
  else if off % 16 = 0 then (x.vec v).1
  else if off % 16 = 8 then BitVec.ofNat 64 ((x.vec v).2.toNat + if bit x.mask v then 2 ^ 32 else 0)
  else 0

/-! ### Function-level reset (R441, R442) -/

/-- A function's commands that have not started are discarded (STATE 4 of CMD_STATUS), and those running are
muted (R441, R451). -/
def State.dropCommands (s : State) (f : Nat) : State :=
  s.modVia fun v =>
    { v with
      recs := (v.queue.filter fun c => c.fn = f).foldl
        (fun l c => addRec l ⟨c.id, f, c.source, numAt c.bytes 4 4, 4, 0, []⟩) v.recs
      queue := v.queue.filter fun c => c.fn ≠ f
      runs := v.runs.map fun r => if r.2.cmd.fn = f then (r.1, { r.2 with mute := true }) else r }

/-- A function reset under R441, with what it does to its commands. -/
def State.flr (s : State) (f : Nat) (busy : Bool) : State :=
  (s.dropCommands f).modFn f fun _ => { flr := busy }

/-! ### The rows -/

/-- MBX_DOORBELL (R426, R427). -/
def execMbxDoorbell (fn : Fin 8) (m : Fin 64) (w : W64) (s : State) : Answer :=
  .next (if s.fnLive fn.val then s.doorbell fn.val m.val w else s)

/-- SQ_PI_WRITE (R437). -/
def execSqPiWrite (fn : Fin 8) (ring : Fin 8) (w : W64) (s : State) : Answer :=
  .next (if s.fnLive fn.val then s.sqPi fn.val ring.val w else s)

/-- RING_ENABLE (R429): a RING_CTL write with EN at 1. -/
def execRingEnable (fn : Fin 8) (ring : Fin 8) (w : W64) (s : State) : Answer :=
  if bit w 0 then .next (if s.fnLive fn.val then s.ringCtl fn.val ring.val w else s) else .refused .notThisCommand

/-- RING_DISABLE (R432): a RING_CTL write with EN at 0. -/
def execRingDisable (fn : Fin 8) (ring : Fin 8) (w : W64) (s : State) : Answer :=
  if bit w 0 then .refused .notThisCommand else .next (if s.fnLive fn.val then s.ringCtl fn.val ring.val w else s)

/-- CQ_CI_WRITE (R431). -/
def execCqCiWrite (fn : Fin 8) (ring : Fin 8) (w : W64) (s : State) : Answer :=
  .next (if s.fnLive fn.val then s.cqCi fn.val ring.val w else s)

/-- A command put in order of acceptance. -/
def putCmd (c : Cmd) : List Cmd → List Cmd
  | [] => [c]
  | d :: l => if c.id < d.id then c :: d :: l else d :: putCmd c l

/-- COMMAND_FETCH (R430, R432): a ring's next command is read by one DMA read of its slot, or the read failed. -/
def execCommandFetch (fn : Fin 8) (ring : Fin 8) (data : Option (List Byte)) (s : State) : Answer :=
  let f := fn.val
  let n := ring.val
  let r := (s.fn f).ring n
  let c := r.ctlOf n
  let size := 2 ^ fld c 19 16
  let k := fld r.stat 15 8
  if !s.fnLive f || !bit c 0 || !s.vready f || r.sqCi % size = r.sqPi % size || 16 ≤ k then .next s
  else
    let s := s.emit (.dmaRead f (r.sqBase.toNat + 64 * r.sqCi) 64)
    match data, r.order[k]? with
    | some d, some id =>
      let s := s.modRing f n fun r =>
        Ring.settle { r with
          sqCi := (r.sqCi + 1) % size, fetched := k + 1, stat := setFld r.stat 15 8 (k + 1) } n
      .next (s.modVia fun v => { v with queue := putCmd ⟨id, f, 64 + n, slice d 0 64, false⟩ v.queue })
    | _, _ => .next (s.ringError f n 2)

/-- COALESCING_TIMER (R433): unannounced completions are announced. -/
def execCoalescingTimer (fn : Fin 8) (ring : Fin 8) (s : State) : Answer :=
  let r := (s.fn fn.val).ring ring.val
  let c := r.ctlOf ring.val
  if r.unannounced = 0 || fld c 55 48 = 0 then .next s
  else
    let s := s.modRing fn.val ring.val fun r => { r with unannounced := 0 }
    .next (if bit c 1 then s.msix fn.val (fld c 13 8) else s)

/-- EVQ_ENABLE (R434): an EVQ_CTL write with EN at 1. -/
def execEvqEnable (fn : Fin 8) (w : W64) (s : State) : Answer :=
  if bit w 0 then .next (if s.fnLive fn.val then s.evqCtl fn.val w else s) else .refused .notThisCommand

/-- MSIX_UNMASK (R436). -/
def execMsixUnmask (fn : Fin 8) (vec : Fin 64) (s : State) : Answer :=
  .next (if s.fnLive fn.val then s.vecMask fn.val vec.val false else s)

/-- FUNCTION_LEVEL_RESET (R441, R442): of the PF also clears VF Enable and resets every VF. -/
def execFunctionLevelReset (fn : Fin 8) (s : State) : Answer :=
  if !s.fnHere fn.val then .next s
  else
    let s := s.flr fn.val true
    if fn.val = 0 then
      let s := [1, 2, 3, 4, 5, 6, 7].foldl (fun s f => s.flr f false) s
      .next { s with host := { s.host with vfs := 0 } }
    else .next s

/-- FLR_COMPLETE (R441). -/
def execFlrComplete (fn : Fin 8) (s : State) : Answer := .next (s.modFn fn.val fun x => { x with flr := false })

/-- REGISTER_WRITE (R9, R10): a write takes effect by the register's field types. -/
def execRegisterWrite (tgt : RegTarget) (w : W64) (s : State) : Answer :=
  match tgt with
  | .bar0 fn off => .next (s.bar0Write fn.val off w)
  | .bar2 x =>
    if !s.fnLive 0 then .next s
    else if x < 0x510000 then .next (s.vcsWrite .host (x / 0x10000) (x % 0x10000) w)
    else .next s.denied
  | .bar4 fn off =>
    .next (if s.fnLive fn.val && decide (off < 0x400) then s.tableWrite fn.val off w else s)
  | .msixCtl fn =>
    if s.fnLive fn.val then
      .next ((s.modFn fn.val fun x => { x with msixOn := bit w 15, fmask := bit w 14 }).msixFlush fn.val)
    else .next s
  | .numVfs =>
    if !s.fnLive 0 then .next s
    else
      let n := fld w 2 0
      let s := [1, 2, 3, 4, 5, 6, 7].foldl (fun s f => if n < f && s.fnHere f then s.flr f false else s) s
      .next { s with host := { s.host with vfs := n } }
  | .viari a => .next (s.devWrite a w)

/-- The host interface in reset (R580, R627): every function as R441 states, no VF, the link down. -/
def State.hostReset (s : State) : State :=
  let s := (List.range 8).foldl (fun s f => s.dropCommands f) s
  { s with host := { s.host with fns := [], vfs := 0, linkUp := false, gen4 := false } }

/-- PERST_N_FALL (R627). -/
def execPerstNFall (s : State) : Answer :=
  let s := s.hostReset
  .next { s with host := { s.host with perst := false } }

/-- Whether the PCIe link may train: PERST_N is high, and the device is powered, not in the boundary-scan hold, and its cold
reset does not wait (R578, R618, R627, R628). -/
def State.pcieMay (s : State) : Bool :=
  s.host.perst && s.dev.pwrgood && !s.dev.bscan && s.dev.coldWait.isNone

/-- The PCIe link up, at 16 GT/s at most when the strap says so (R617). -/
def State.pcieUp (s : State) : State := { s with host := { s.host with linkUp := true, gen4 := s.dev.straps.getLsbD 3 } }

/-- PERST_N_RISE (R627): the functions leave reset and the link trains, its sixteen receivers adapting fully to coefficients
that are open (R553, log 4). -/
def execPerstNRise (s : State) : Answer :=
  let s := { s with host := { s.host with perst := true } }
  if !s.pcieMay then .next s
  else
    let c (r : Nat) : List Int := (List.range 6).map fun i => (Config.freeNat (s.fresh + 6 * r + i) : Int)
    let s' := s.modPwr fun p => { p with coefs := (List.range 16).foldl (fun m r => m.put r (c r)) p.coefs }
    .next { s' with fresh := s.fresh + 96 }.pcieUp

end Sys2Proof.Machine
end

