-- ==== Sys2Proof/Machine/Viari.lean ====
section
/-! DEFINITION. Viari: starting and checking commands (R437 to R449), and the commands for the device, policy, turns,
lanes, ports, journal, replay and vat control (R450 to R452, R462 to R466, R470). -/

namespace Sys2Proof.Machine

/-! ### The command tables (R444 to R447) -/

/-- The modes of the set any (R449). -/
def mAny : List Nat := [2, 3, 4, 5, 6, 7, 8, 9, 10, 11]
/-- The modes of the set live (R449). -/
def mLive : List Nat := [2, 3, 4, 5, 6, 7, 8]
/-- The modes of the set cfg (R449). -/
def mCfg : List Nat := [2, 3]

/-- The codes of the command tables. -/
def codes : List Nat :=
  [0x0001, 0x0002, 0x0003, 0x0004, 0x0005, 0x0006, 0x0100, 0x0101, 0x0102, 0x0103] ++
  [0x0300, 0x0301, 0x0302, 0x0303, 0x0304, 0x0305, 0x0400, 0x0401, 0x0402, 0x0403, 0x0404, 0x0405, 0x0406] ++
  [0x0500, 0x0501, 0x0502, 0x0600, 0x0601, 0x0602, 0x0603, 0x0700, 0x0701, 0x0702, 0x0703, 0x0704] ++
  [0x0800, 0x0801, 0x0802, 0x0803, 0x0804, 0x0900, 0x0901, 0x0902, 0x0903, 0x0904, 0x0905, 0x0A00, 0x0A01, 0x0A02]

/-- The serialisation group of a code, 0 for none (R447). -/
def groupOf (code : Nat) : Nat :=
  if [0x0100, 0x0101, 0x0102].contains code then 1
  else if [0x0300, 0x0301, 0x0302, 0x0303, 0x0304].contains code then 2
  else if [0x0400, 0x0401, 0x0402, 0x0404, 0x0406].contains code then 3
  else if [0x0600, 0x0602].contains code then 4
  else if [0x0700, 0x0701, 0x0702, 0x0703].contains code then 5
  else if [0x0900, 0x0901, 0x0902, 0x0903, 0x0904, 0x0905].contains code then 6
  else 0

/-- Codes that VFs may give: Fn all. -/
def fnAll (code : Nat) : Bool :=
  [0x0001, 0x0004, 0x0006, 0x0305, 0x0403, 0x0502, 0x0601, 0x0704, 0x0900, 0x0901, 0x0A00].contains code

/-- The PARAM bytes a command assigns, as first and last. -/
def usedOf (code : Nat) : List (Nat × Nat) :=
  match code with
  | 0x0002 => [(8, 8), (10, 15)]
  | 0x0003 => [(8, 10)]
  | 0x0004 => [(8, 12)]
  | 0x0005 => [(8, 31)]
  | 0x0006 => [(8, 15)]
  | 0x0100 => [(8, 23)]
  | 0x0102 => [(8, 9)]
  | 0x0300 => [(8, 8)]
  | 0x0301 => [(8, 8), (16, 35)]
  | 0x0302 => [(8, 39)]
  | 0x0303 => [(8, 13)]
  | 0x0400 => [(8, 15)]
  | 0x0401 => [(8, 19)]
  | 0x0402 => [(8, 27)]
  | 0x0403 => [(8, 27)]
  | 0x0404 => [(8, 19)]
  | 0x0405 => [(8, 10)]
  | 0x0406 => [(8, 20)]
  | 0x0500 => [(8, 21)]
  | 0x0501 => [(8, 8)]
  | 0x0600 => [(8, 10), (12, 27)]
  | 0x0601 => [(8, 10), (12, 27)]
  | 0x0602 => [(8, 10), (12, 27)]
  | 0x0603 => [(8, 31)]
  | 0x0700 => [(8, 8), (16, 27)]
  | 0x0701 => [(8, 15)]
  | 0x0702 => [(8, 27)]
  | 0x0703 => [(16, 27)]
  | 0x0800 => [(8, 11), (16, 27)]
  | 0x0801 => [(16, 27)]
  | 0x0802 => [(8, 10)]
  | 0x0803 => [(8, 9), (16, 27)]
  | 0x0804 => [(8, 9)]
  | 0x0900 => [(8, 51)]
  | 0x0901 => [(8, 19)]
  | 0x0902 => [(8, 19)]
  | 0x0903 => [(8, 13)]
  | 0x0905 => [(8, 19)]
  | 0x0A00 => [(8, 16)]
  | 0x0A01 => [(8, 23)]
  | 0x0A02 => [(8, 31)]
  | _ => []

/-- One byte of a command. -/
def Cmd.b (c : Cmd) (i : Nat) : Nat := numAt c.bytes i 1

/-- The number that n bytes of a command hold. -/
def Cmd.n (c : Cmd) (i n : Nat) : Nat := numAt c.bytes i n

/-- A 64-bit field of a command. -/
def Cmd.w (c : Cmd) (i : Nat) : W64 := BitVec.ofNat 64 (c.n i 8)

/-- Whether reserved FLAGS bits and unassigned PARAM bytes are 0 (R424, R444 check 2). -/
def Cmd.clean (c : Cmd) : Bool :=
  decide (c.n 2 2 % 2 ^ 15 = 0) && (List.range 56).all fun i =>
    let k := i + 8
    (usedOf c.code).any (fun r => decide (r.1 ≤ k) && decide (k ≤ r.2)) || decide (c.b k = 0)

/-- Whether every enumerated field holds a listed value (R444 check 2). -/
def Cmd.enumsOk (c : Cmd) : Bool :=
  match c.code with
  | 0x0003 => decide (1 ≤ c.b 8) && decide (c.b 8 ≤ 3)
  | 0x0102 => decide (c.b 8 ≤ 1) && decide (c.b 9 ≤ 1)
  | 0x0300 => decide (c.b 8 ≤ 1)
  | 0x0301 => decide (1 ≤ c.b 8) && decide (c.b 8 ≤ 3)
  | 0x0405 => decide (c.b 10 ≤ 2)
  | 0x0406 => decide (c.b 20 % 8 = 0)
  | 0x0500 => !lTrn.hit (c.w 8) && !trnReserved (c.w 8)
  | 0x0603 =>
    decide (c.b 9 ≤ 2) && (c.b 11 = 4 || c.b 11 = 6) && (c.b 11 = 6 || decide (c.n 16 12 = 0))
  | 0x0700 => decide (c.b 8 ≤ 1)
  | 0x0802 => decide (1 ≤ c.b 10) && decide (c.b 10 ≤ 2)
  | 0x0A00 => decide (c.b 16 ≤ 4)
  | 0x0A02 =>
    decide (1 ≤ fld (c.w 16) 2 0) && decide (fld (c.w 16) 2 0 ≤ 4) && !(layout [] [] [(63, 48), (11, 0)]).hit (c.w 8) &&
      !(layout [] [] [(47, 8), (4, 3)]).hit (c.w 16)
  | _ => true

/-- Whether no posting or peek is running or held (R449 quiet). -/
def State.quiet (s : State) : Bool := s.dev.mode = 3 || (s.dev.mode = 6 && s.prs.txs.isEmpty)

/-- Whether R559 lists a MODE_SET from one mode to another. -/
def modeSetListed (m t : Nat) : Bool :=
  (t = 3 && (m = 2 || m = 6)) || (m = 3 && [4, 5, 7, 8].contains t) || (t = 6 && [4, 5, 7, 8].contains m) ||
    (t = 9 && [2, 3, 4, 5, 6, 7, 8, 10].contains m) || (t = 10 && m = 9) || (t = 11 && (m = 3 || m = 10))

/-- Whether the current mode lies in a command's Modes column (R444 check 4, R450, R564, R579). -/
def State.modeOk (s : State) (c : Cmd) : Bool :=
  let m := s.dev.mode
  let early := s.via.fw.hostLoad && !s.via.fw.started
  if early && !([0x0001, 0x0103, 0x0100, 0x0101, 0x0800, 0x0801].contains c.code) then false
  else match c.code with
    | 0x0002 => modeSetListed m (c.b 8)
    | 0x0003 => if c.b 8 = 1 then mAny.contains m else [2, 3, 9, 10].contains m
    | 0x0100 => (mLive ++ [9, 10]).contains m
    | 0x0101 => (mLive ++ [9, 10]).contains m
    | 0x0102 => (mLive ++ [9, 10]).contains m
    | 0x0400 => mCfg.contains m
    | 0x0401 => s.quiet
    | 0x0402 => m = 3
    | 0x0403 => [3, 4, 5, 6, 7, 8, 10].contains m
    | 0x0404 => [3, 4, 5, 6, 8].contains m
    | 0x0500 => mCfg.contains m
    | 0x0501 => m = 7
    | 0x0603 => mCfg.contains m
    | 0x0700 => mCfg.contains m
    | 0x0701 => [3, 4, 5, 6, 7, 8].contains m
    | 0x0703 => m = 7
    | 0x0802 => (mLive ++ [10]).contains m
    | 0x0804 => [3, 10].contains m
    | 0x0900 => (mLive ++ [9, 10]).contains m
    | 0x0901 => (mLive ++ [9, 10]).contains m
    | 0x0902 => mCfg.contains m
    | 0x0904 => [3, 10].contains m
    | 0x0905 => [3, 10].contains m
    | 0x0A01 => (mLive ++ [10]).contains m
    | code =>
      if [0x0001, 0x0004, 0x0006, 0x0103, 0x0305, 0x0502, 0x0601, 0x0702, 0x0704, 0x0800, 0x0801, 0x0803,
          0x0A00].contains code then mAny.contains m
      else mLive.contains m

/-- Whether a BUF field at an offset is one R446 permits, with a length within bounds. -/
def Cmd.bufOk (c : Cmd) (i lo hi : Nat) : Bool :=
  let n := c.n (i + 8) 4
  decide (c.n i 8 % 64 = 0) && decide (n % 64 = 0) && decide (n ≠ 0) && decide (lo ≤ n) && decide (n ≤ hi)

/-- The length of a BUF field. -/
def Cmd.bufLen (c : Cmd) (i : Nat) : Nat := c.n (i + 8) 4

/-- No upper bound on a buffer's length but the field's own. -/
def bufMax : Nat := 2 ^ 32

/-- Whether a lane range and its buffer are in range (R463). -/
def Cmd.lanesOk (c : Cmd) : Bool :=
  let n := c.n 12 4
  decide (1 ≤ n) && decide (n ≤ 4096) && decide (c.n 8 3 + n ≤ 1048576) && c.bufOk 16 (64 * n) bufMax

/-- Whether an address range lies in the ledger window, on whole lines. -/
def State.inLedger (s : State) (pa n : Nat) : Bool :=
  decide (pa % 64 = 0) && bit s.via.rgnLdg 0 && decide (rgnBase s.via.rgnLdg ≤ pa) &&
    decide (pa + n ≤ rgnBase s.via.rgnLdg + rgnSize s.via.rgnLdg)

/-- Whether a turn number may be the first (R64, R571, R65). -/
def State.firstOk (s : State) (f : Nat) : Bool :=
  decide (f ≤ 2 ^ 48 - 2 ^ 32) && match s.via.warmD with
    | none => true
    | some d => decide (f = d + 1) || decide (2 ^ 48 - 2 ^ 20 ≤ d + 1)

/-- Whether every numeric field of a command lies in its range (R444 check 5). -/
def State.rangesOk (s : State) (c : Cmd) : Bool :=
  match c.code with
  | 0x0002 => decide (c.b 8 ≤ 11) && (c.b 8 ≠ 7 || decide (c.n 10 6 ≤ 2 ^ 48 - 2 ^ 32))
  | 0x0003 => decide (c.b 9 ≤ 63) && decide (c.b 10 ≤ 17)
  | 0x0004 => decide (c.b 12 ≤ 71)
  | 0x0005 => decide (devBase ≤ c.n 8 8) && isPolicy (c.n 8 8 - devBase)
  | 0x0006 => decide (devBase ≤ c.n 8 8) && decide (c.n 8 8 < devBase + 2 ^ 25) && decide (c.n 8 8 % 8 = 0)
  | 0x0100 =>
    let off := c.n 8 4
    decide (off % 4096 = 0) && c.bufOk 12 4096 (2 ^ 20) && decide (c.bufLen 12 % 4096 = 0) &&
      decide (off + c.bufLen 12 ≤ 2 ^ 25)
  | 0x0301 =>
    c.bufOk 24 64 (2 ^ 26) && (if c.b 8 = 1 then decide (c.n 16 8 = 0) else decide (c.n 16 8 % 4096 = 0))
  | 0x0401 => c.bufOk 8 64 (2 ^ 20)
  | 0x0402 => c.bufOk 16 64 (2 ^ 28) && s.inLedger (c.n 8 8) (c.bufLen 16)
  | 0x0403 => c.bufOk 16 64 (2 ^ 24) && s.inLedger (c.n 8 8) (c.bufLen 16)
  | 0x0404 => c.bufOk 8 64 (2 ^ 14)
  | 0x0406 => decide (c.n 8 8 % 4096 = 0) && decide (1 ≤ c.n 16 4) && decide (c.n 16 4 ≤ 1048576)
  | 0x0500 =>
    let w := c.w 8
    !bit w 0 && decide (fld w 5 4 ≤ 1) && !periodBad w && s.firstOk (c.n 16 6)
  | 0x0501 => decide (1 ≤ c.b 8) && decide (c.b 8 ≤ 16)
  | 0x0600 => c.lanesOk
  | 0x0601 => c.lanesOk
  | 0x0602 => c.lanesOk
  | 0x0603 =>
    decide (c.b 8 ≤ 3) && (c.b 10 = 0 || c.b 10 = 255 || (c.b 9 = 2 && decide (c.b 10 ≤ 3))) &&
      !([0, 319, 320].contains (c.n 12 2)) && decide (c.n 14 2 ≤ 4094)
  | 0x0700 =>
    c.b 8 = 1 || (c.bufOk 16 (2 ^ 20) (2 ^ 30) && decide (c.bufLen 16 = 2 ^ Nat.log2 (c.bufLen 16)))
  | 0x0702 => c.bufOk 16 64 bufMax
  | 0x0703 => c.bufOk 16 64 bufMax
  | 0x0800 =>
    decide (c.n 8 2 ≤ 16383) && decide (1 ≤ c.n 10 2) && decide (c.n 10 2 ≤ 16384) && c.bufOk 16 (64 * c.n 10 2) bufMax
  | 0x0801 => c.bufOk 16 4096 bufMax
  | 0x0802 => decide (c.b 8 ≤ 63) && decide (c.b 9 ≤ 17)
  | 0x0803 => decide (c.b 8 ≤ 63) && decide (c.b 9 ≤ 17) && c.bufOk 16 16384 16384
  | 0x0804 => decide (c.b 8 ≤ 63) && decide (c.b 9 ≤ 17)
  | 0x0900 => c.bufOk 40 1024 bufMax
  | 0x0901 => c.bufOk 8 64 bufMax
  | 0x0902 => c.bufOk 8 64 bufMax
  | 0x0905 => c.bufOk 8 64 bufMax
  | 0x0A00 => decide (devBase ≤ c.n 8 8) && decide (c.n 8 8 < devBase + 0x510000) && decide (c.n 8 8 % 8 = 0)
  | 0x0A01 =>
    let x := c.n 8 8 - devBase
    decide (devBase ≤ c.n 8 8) && decide (x < 0x510000) && decide (x % 8 = 0) && hostMay (x / 0x10000) (x % 0x10000)
  | _ => true

/-- Checks 1 to 5 of R444: the status of the first that fails. -/
def State.checkCmd (s : State) (c : Cmd) : Option Nat :=
  if !codes.contains c.code then some stBadCode
  else if !c.clean || !c.enumsOk then some stMalformed
  else if c.fn ≠ 0 && !fnAll c.code then some stNotPermitted
  else if !s.modeOk c then some stMode
  else if !s.rangesOk c then some stRange
  else none

/-! ### Starting a command (R437, R438, R447) -/

/-- FENCE of a command (R423). -/
def Cmd.fence (c : Cmd) : Bool := decide (2 ^ 15 ≤ c.n 2 2)

/-- MODE_SET and RESET run alone (R447). -/
def isAlone (code : Nat) : Bool := code = 0x0002 || code = 0x0003

/-- Whether a ring's commands wait behind a completion held for room (R431). -/
def Ring.blocked (r : Ring) (n : Nat) : Bool :=
  let size := 2 ^ fld (r.ctlOf n) 23 20
  !r.held.isEmpty && decide ((r.cqPi + 1) % size = r.cqCi % size)

/-- Whether a command of a function accepted before an id has not been fetched (R430, R437). -/
def State.unfetched (s : State) (f id : Nat) : Bool :=
  (s.fn f).rings.any fun r => (r.2.order.drop (fld r.2.stat 15 8)).any fun i => decide (i < id)

/-- Whether every command of a function accepted before an id has completed (R437). -/
def State.allDone (s : State) (f id : Nat) : Bool :=
  !(s.via.queue.any fun d => d.fn = f && decide (d.id < id)) && !(s.via.runs.any fun r => r.2.cmd.fn = f) &&
    !s.unfetched f id

/-- Whether a command of any function accepted before an id has not been fetched. -/
def State.anyUnfetched (s : State) (id : Nat) : Bool := (List.range 8).any fun f => s.vready f && s.unfetched f id

/-- Whether an accepted command may start now (R431, R437, R447). One accepted earlier and not yet fetched may hold a FENCE, so
it holds the later ones of its function back; its group is not known either, so it holds back a command of a group, of
whatever function (log 29). -/
def State.startable (s : State) (c : Cmd) : Bool :=
  let earlier := s.via.queue.filter fun d => decide (d.id < c.id)
  let runs := s.via.runs.map fun r => r.2.cmd
  let g := groupOf c.code
  (!c.fence || s.allDone c.fn c.id) && !s.unfetched c.fn c.id &&
    !((earlier ++ runs).any fun d => d.fn = c.fn && d.fence && decide (d.id < c.id)) &&
    (decide (c.source < 64) || (!(earlier.any fun d => d.fn = c.fn && d.source = c.source) &&
      !((s.fn c.fn).ring (c.source - 64)).blocked (c.source - 64))) &&
    (decide (g = 0) || (!((earlier ++ runs).any fun d => groupOf d.code = g) && !s.anyUnfetched c.id)) &&
    (!isAlone c.code || runs.isEmpty) && (isQ c.code || !(runs.any fun d => isAlone d.code))

/-- The next command to start: the function that is next in turn and has a startable command gives its earliest (R438). -/
def State.nextCmd (s : State) : Option Cmd :=
  ((List.range 8).map fun i => (s.via.rr + 1 + i) % 8).findSome? fun f =>
    s.via.queue.find? fun c => c.fn = f && s.startable c

/-- COMMAND_START (R438, R444): a free slot is given, the mailbox shows RUNNING (R426), and a command that fails a check
ends at once. While a host-loaded image starts, accepted commands wait for it (R579). -/
def execCommandStart (s : State) : Answer :=
  match (List.range 16).find? fun k => (s.via.runs.find k).isNone, s.nextCmd with
  | some k, some c =>
    if !s.vready c.fn || (s.via.fw.hostLoad && !s.via.fw.started && !s.via.fw.image.isEmpty) then .next s
    else
      let s := s.modVia fun v => { v with queue := v.queue.filter (fun d => d.id ≠ c.id), rr := c.fn }
      let s := if c.source < 64 then s.modMbx c.fn c.source fun m => { m with stat := setFld m.stat 2 0 2 } else s
      match s.checkCmd c with
      | some st => .next (s.deliver c false st [])
      | none => .next (s.modVia fun v => { v with runs := v.runs.put k { cmd := c } })
  | _, _ => .next s

/-! ### What every command's meaning uses -/

/-- The meaning of a command's row for the slot that runs it. -/
def State.cmd (s : State) (k : Fin 16) (code : Nat) (f : Run → State) : Answer :=
  match s.via.runs.find k.val with
  | some r => if r.cmd.code = code then .next (f r) else .refused .notThisCommand
  | none => .refused .notThisCommand

/-- The bytes of an input buffer: as long as BUF says. -/
def Cmd.input (c : Cmd) (i : Nat) (d : List Byte) : List Byte := slice d 0 (c.bufLen i)

/-- Bytes written to a command's output buffer, and how many when the write failed (R439, R445, R446). -/
def State.output (s : State) (r : Run) (i : Nat) (bytes : List Byte) (out : DmaOut) : State × Option Nat :=
  let b := match out with
    | none => bytes
    | some n => bytes.take n
  ((if s.dmaOn r.cmd.fn && !r.mute then s.emit (.dma r.cmd.fn (r.cmd.n i 8) b) else s), out.map fun n => min n bytes.length)

/-- A command marked as having made its effect. -/
def State.started (s : State) (k : Nat) : State :=
  s.modVia fun v =>
    { v with runs := match v.runs.find k with
        | some r => v.runs.put k { r with started := true }
        | none => v.runs }

/-- A command whose record may wait completes once it has been appended (R635). -/
def State.afterRecord (s : State) (k : Nat) (result : List Byte) : State :=
  if s.recordWaits k then s.started k else s.complete k stDone result

/-! ### Device and policy (R444, R451, R452) -/

/-- The version of the running firmware (R576, R579). -/
def State.fwVersion (s : State) : Nat := if s.via.fw.hostLoad && !s.via.fw.started then 0 else numAt s.via.fw.image 0 4

/-- DEV_INFO (R444). -/
def execDevInfo (k : Fin 16) (s : State) : Answer :=
  s.cmd k 0x0001 fun _ => s.complete k.val stDone
    ([BitVec.ofNat 8 s.dev.mode, 0] ++ toBytes 2 s.live ++ toBytes 4 s.fwVersion ++ toBytes 8 (s.feat 0 0).toNat ++
      toBytes 8 (s.feat 0 1).toNat ++ toBytes 4 ((s.setFor s.trn.turn).elim 0 CfgSet.ver) ++ toBytes 4 0 ++
      toBytes 6 (s.prs.relBatch.getD 0))

/-- The command that CMD_STATUS reports: TAG and SOURCE match, accepted last (R451). Its id, state, status, result. -/
def State.findCmd (s : State) (fn tag src self : Nat) : Option (Nat × Nat × Nat × List Byte) :=
  let hit (c : Cmd) : Bool := c.fn = fn && c.source = src && c.n 4 4 = tag && c.id ≠ self
  let l := ((s.via.queue.filter hit).map fun c => (c.id, 1, 0, ([] : List Byte))) ++
    (((s.via.runs.map fun r => r.2.cmd).filter hit).map fun c => (c.id, 2, 0, [])) ++
    ((s.via.recs.filter fun r => r.fn = fn && r.source = src && r.tag = tag).map fun r => (r.id, r.state, r.status, r.result))
  l.foldl (fun acc x => match acc with
    | none => some x
    | some y => if y.1 < x.1 then some x else some y) none

/-- CMD_STATUS (R451). -/
def execCmdStatus (k : Fin 16) (s : State) : Answer :=
  s.cmd k 0x0004 fun r =>
    match s.findCmd r.cmd.fn (r.cmd.n 8 4) (r.cmd.b 12) r.cmd.id with
    | none => s.complete k.val stDone [0]
    | some (_, st, status, res) =>
      s.complete k.val stDone ([BitVec.ofNat 8 st, 0] ++ toBytes 2 status ++ slice res 0 44)

/-- POLICY_WRITE (R452). -/
def execPolicyWrite (k : Fin 16) (s : State) : Answer :=
  s.cmd k 0x0005 fun r =>
    let x := r.cmd.n 8 8 - devBase
    let m := r.cmd.w 24
    let w := (s.blockRead x &&& ~~~m) ||| (r.cmd.w 16 &&& m)
    if s.policyOk x w then
      let s := s.policyWrite x w
      s.complete k.val stDone (toBytes 8 (s.blockRead x).toNat)
    else s.complete k.val stRange []

/-- POLICY_READ (R452): a read by Viari, which waits for its writes of Vat Control Space (R515). -/
def execPolicyRead (k : Fin 16) (s : State) : Answer :=
  s.cmd k 0x0006 fun r =>
    if decide (r.cmd.n 8 8 < devBase + 0x510000) && s.vcsBusy .viari then s else
    let v := s.devRead .viari (r.cmd.n 8 8) none
    v.1.complete k.val stDone (toBytes 8 v.2.toNat)

/-! ### Turns (R462) -/

/-- TURN_CONFIG (R462). -/
def execTurnConfig (k : Fin 16) (s : State) : Answer :=
  s.cmd k 0x0500 fun r =>
    let s := s.modTrn fun t => { t with ctl := r.cmd.w 8, turn := r.cmd.n 16 6, first := true }
    (s.modVia fun v => { v with turnSet := true }).complete k.val stDone []

/-- TURN_STEP (R462, R52): credits that fit are added. -/
def execTurnStep (k : Fin 16) (s : State) : Answer :=
  s.cmd k 0x0501 fun r =>
    let have_ := fld s.trn.status 23 19
    let n := min (r.cmd.b 8) (16 - have_)
    let s := s.modTrn fun t => { t with status := setFld t.status 23 19 (have_ + n) }
    s.complete k.val (if n = r.cmd.b 8 then stDone else stPartial) [BitVec.ofNat 8 n, BitVec.ofNat 8 (r.cmd.b 8 - n)]

/-- TURN_STATUS (R444). -/
def execTurnStatus (k : Fin 16) (s : State) : Answer :=
  s.cmd k 0x0502 fun _ => s.complete k.val stDone
    (toBytes 8 s.trn.ctl.toNat ++ toBytes 8 s.trn.status.toNat ++ toBytes 8 s.trnNow.toNat ++ toBytes 8 s.prsStatus.toNat)

/-! ### Lanes and ports (R463, R473, R487, R488) -/

/-- A lane table entry as 64 bytes (R487). -/
def Lane.bytes (l : Lane) : List Byte :=
  let b (x : Bool) (n : Nat) : Nat := if x then n else 0
  [BitVec.ofNat 8 (b l.valid 128 + b l.postEn 64 + b l.peekEn 32 + b l.keyv 16 + l.classMax), BitVec.ofNat 8 l.cscore] ++
    toBytes 2 l.ports.toNat ++ toBytes 4 0 ++ toBytes 5 l.hiseq ++ toBytes 3 0 ++ toBytes 8 l.win.toNat ++
    toBytes 6 l.lastTurn ++ toBytes 2 0 ++ toBytes 4 l.nAdmit ++ toBytes 4 l.nBusy ++ toBytes 4 l.nReject ++
    toBytes 4 l.nAuth ++ toBytes 16 0

/-- Whether the reserved parts of a written entry are 0 (R488). -/
def entryOk (e : List Byte) : Bool :=
  !(e.getD 0 0).getLsbD 3 && decide (numAt e 1 1 < 64) && decide (numAt e 4 4 = 0) && decide (numAt e 13 3 = 0) &&
    decide (numAt e 30 2 = 0) && decide (numAt e 48 16 = 0)

/-- A lane after LANE_WRITE of an entry (R488). -/
def Lane.written (l : Lane) (e : List Byte) : Lane :=
  let f := e.getD 0 0
  let l := if !l.valid && f.getLsbD 7 then
      { l with cscore := 0, lastTurn := 0, nAdmit := 0, nBusy := 0, nReject := 0, nAuth := 0 } else l
  { l with
    valid := f.getLsbD 7, postEn := f.getLsbD 6, peekEn := f.getLsbD 5, classMax := f.toNat % 8
    ports := BitVec.ofNat 16 (numAt e 2 2), hiseq := numAt e 8 5, win := BitVec.ofNat 64 (numAt e 16 8) }

/-- A lane's entry in force kept until tick 0 before its table entry changes (R463). -/
def State.keepLane (s : State) (l : Nat) : State :=
  s.modItk fun i => match i.lanesOld.find l with
    | some _ => i
    | none => { i with lanesOld := i.lanesOld.put l (i.lanes.get l {}) }

/-- A table entry changed, to apply from the next tick 0 (R463). -/
def State.setLane (s : State) (l : Nat) (f : Lane → Lane) : State :=
  (s.keepLane l).modItk fun i => { i with lanes := i.lanes.put l (f (i.lanes.get l {})) }

/-- A lane's window set by LANE_WRITE, and the rest of what it takes (R463, R488). -/
def State.writeLane (s : State) (l : Nat) (e : List Byte) : State :=
  (s.setLane l fun x => x.written e).modItk fun i =>
    { i with rewritten := if i.rewritten.contains l then i.rewritten else l :: i.rewritten }

/-- LANE_WRITE (R488). -/
def execLaneWrite (k : Fin 16) (buf : DmaIn) (s : State) : Answer :=
  s.cmd k 0x0600 fun r =>
    match buf with
    | none => s.complete k.val stDmaRead []
    | some d =>
      let d := r.cmd.input 16 d
      let n := r.cmd.n 12 4
      let first := r.cmd.n 8 3
      let e (i : Nat) : List Byte := slice d (64 * i) 64
      if (List.range n).all fun i => entryOk (e i) then
        ((List.range n).foldl (fun s i => s.writeLane (first + i) (e i)) s).complete k.val stDone
          (toBytes 4 n)
      else s.complete k.val stMalformed []

/-- LANE_READ (R463). -/
def execLaneRead (k : Fin 16) (out : ReadOut) (s : State) : Answer :=
  s.cmd k 0x0601 fun r => match ueLines out.env with
  | a :: _ => s.ueSafe a 4
  | [] =>
    let n := r.cmd.n 12 4
    let d := ((List.range n).map fun i => (s.itk.lanes.get (r.cmd.n 8 3 + i) {}).bytes).flatten
    let x := s.output r 16 d out.dma
    match x.2 with
    | none => x.1.complete k.val stDone (toBytes 4 n)
    | some m => x.1.complete k.val stDmaWrite (toBytes 4 (m / 64))

/-- PORT_CONFIG (R471, R473). A change of SPEED takes the port's links down, and with them their
queued RESULTs (R494). -/
def execPortConfig (k : Fin 16) (s : State) : Answer :=
  s.cmd k 0x0603 fun r =>
    let c := r.cmd
    let p := c.b 8
    let speed := c.b 9
    let subs := if speed < 2 then [0] else if c.b 10 = 255 then [0, 1, 2, 3] else [c.b 10]
    let changed := decide (s.itk.speed.find p ≠ some speed)
    let s := s.modItk fun i => { i with speed := i.speed.put p speed }
    let s := if changed then (List.range 4).foldl (fun s u => s.linkLost p u) s else s
    let s := (List.range 4).foldl (fun s u => s.modSub p u fun x =>
      let x := if speed < 2 && u ≠ 0 then { x with set := false } else x
      if subs.contains u then
        { x with set := true, ipver := c.b 11, udp := c.n 12 2, vlan := c.n 14 2, ip := c.n 16 16 }
      else x) s
    s.complete k.val stDone []

/-! ### Journal and replay (R465, R466, R505) -/

/-- JRN_CONFIG (R465, R635): the ring is set up and the records held so far become its first bytes. -/
def execJrnConfig (k : Fin 16) (s : State) : Answer :=
  s.cmd k 0x0700 fun r =>
    let ddr := decide (r.cmd.b 8 = 1)
    let ring := Config.jrnRing s.via.fw.image
    let size := if ddr then ring.2 else r.cmd.bufLen 16
    let base := if ddr then rgnBase s.via.rgnFwd + ring.1 else r.cmd.n 16 8
    let s := s.modVia fun v =>
      { v with
        jrnSet := true
        jrn := { v.jrn with set := true, ddr := ddr, size := size, base := base, made := 0, used := 0, bytes := [] } }
    let s := State.jrnFlush s.via.jrn.held.length s
    s.complete k.val stDone (toBytes 8 size)

/-- JRN_ACK (R465, R635). -/
def execJrnAck (k : Fin 16) (s : State) : Answer :=
  s.cmd k 0x0701 fun r =>
    let n := r.cmd.n 8 8
    if n < s.via.jrn.used || s.via.jrn.made < n then s.complete k.val stRange []
    else
      let s := s.modVia fun v => { v with jrn := { v.jrn with used := n } }
      let s := State.jrnFlush s.via.jrn.held.length s
      s.complete k.val stDone (toBytes 8 s.via.jrn.made)

/-- A byte of the journal ring as the control processor reads it: open on a line with an uncorrectable error (R529, log 4). -/
def State.jrnByte (s : State) (ue : List Nat) (i : Nat) : Byte :=
  let a := rgnBase s.via.rgnFwd + (Config.jrnRing s.via.fw.image).1 + i
  match ue.findIdx? fun b => decide (b / 64 = a / 64) with
  | some n => BitVec.ofNat 8 (Config.freeNat (s.fresh + n) / 2 ^ (8 * (a % 64)))
  | none => s.via.jrn.bytes.get i 0

/-- JRN_READ (R465). -/
def execJrnRead (k : Fin 16) (out : ReadOut) (s : State) : Answer :=
  s.cmd k 0x0702 fun r =>
    let ue := ueLines out.env
    let s := ue.foldl (fun s a => s.ueRecord a 4 false) s
    let j := s.via.jrn
    let pos := r.cmd.n 8 8
    let n := r.cmd.bufLen 16
    if j.made < pos + n || pos + j.size < j.made then s.complete k.val stRange []
    else
      let d := (List.range n).map fun i => s.jrnByte ue ((pos + i) % max 1 j.size)
      let s := { s with fresh := s.fresh + ue.length }
      let x := s.output r 16 d out.dma
      match x.2 with
      | none => x.1.complete k.val stDone (toBytes 4 n)
      | some m => x.1.complete k.val stDmaWrite (toBytes 4 m)

/-- The records of a buffer of whole records (R501); none when they do not tile it. Zeros after the last are padding. -/
def recordsOf : Nat → List Byte → Option (List (List Byte))
  | 0, l => if l.all (· = 0) then some [] else none
  | k + 1, l =>
    let n := numAt l 2 2
    if l.all (· = 0) then some []
    else if n < 32 || n % 16 ≠ 0 || l.length < n then none
    else (recordsOf k (l.drop n)).map fun r => l.take n :: r

/-- One supplied record taken, if it continues the chain (R466, R503): release records follow batch order, a ledger load
record's chain value is the one that follows, frames come in turn order and before the release record of their turn, and a
CONFIG before the frames of its effective turn. -/
def Replay.take (p : Replay) (r : List Byte) : Option Replay :=
  let turn := numAt r 4 6
  let b := r.drop 16
  let last := p.lastFrame.getD 0
  let next := if p.hashes.isEmpty then 0 else p.lastSup + 1
  match numAt r 0 2 with
  | 0x0001 =>
    if last ≤ turn && (p.hashes.isEmpty || decide (p.lastSup < turn)) then
      some { p with frames := p.frames ++ [(turn, r)], lastFrame := some turn }
    else none
  | 0x0002 =>
    let n := numAt b 0 6
    if p.hashes.isEmpty || n = p.lastSup + 1 then
      some { p with hashes := p.hashes.put n (slice b 32 48), lastSup := n, chain := some (slice b 32 48) }
    else none
  | 0x0003 =>
    if p.lastFrame.elim false fun n => decide (numAt b 0 6 ≤ n) then none
    else some { p with frames := p.frames ++ [(turn, r)] }
  | 0x0004 =>
    let ok := p.chain.elim true fun c => decide (sha384 (c ++ slice b 0 12 ++ slice b 16 48) = slice b 64 48)
    if ok && decide (last ≤ turn) then
      some { p with chains := p.chains ++ [(next, slice b 64 48)], chain := some (slice b 64 48) }
    else none
  | 0x0005 => some p
  | 0x0006 =>
    let v := slice b 16 48
    if p.chain.elim true (fun c => decide (c = v)) && decide (last ≤ turn) then
      some { p with chains := p.chains ++ [(next, v)], chain := some v }
    else none
  | _ => none

/-- RPL_SUPPLY (R466). -/
def execRplSupply (k : Fin 16) (buf : DmaIn) (s : State) : Answer :=
  s.cmd k 0x0703 fun r =>
    match buf with
    | none => s.complete k.val stDmaRead []
    | some d =>
      let l := recordsOf (r.cmd.bufLen 16 / 32) (r.cmd.input 16 d)
      match l.bind fun l => l.foldl (fun p x => p.bind fun p => p.take x) (some s.via.rpl) with
      | none => s.complete k.val stVerify []
      | some p => (s.modVia fun v => { v with rpl := p }).complete k.val stDone (toBytes 6 p.lastSup)

/-- Whether Replay waits for the release record of the turn to come (R52, R466). -/
def State.rplWaits (s : State) : Bool :=
  s.dev.mode = 7 && (s.via.rpl.hashes.find (if s.ticking then s.trn.turn + 1 else s.trn.turn)).isNone

/-- RPL_STATUS (R444, R466). -/
def execRplStatus (k : Fin 16) (s : State) : Answer :=
  s.cmd k 0x0704 fun _ =>
    let p := s.via.rpl
    s.complete k.val stDone (toBytes 6 p.lastCmp ++ toBytes 6 (p.diverged.getD 0) ++
      [if p.diverged.isSome then 2 else if s.rplWaits then 1 else 0])

/-! ### Vat control (R470) -/

/-- VCS_READ (R470): a read by the host, of its copy of GRPRD too (R507); REDUCE alone reduces. It waits for the host's earlier
writes (R515, log 33). -/
def execVcsRead (k : Fin 16) (s : State) : Answer :=
  s.cmd k 0x0A00 fun r =>
    if s.vcsBusy .host then s else
    let v := s.devRead .host (r.cmd.n 8 8) (some (r.cmd.b 16))
    v.1.complete k.val stDone (toBytes 8 v.2.toNat)

/-- VCS_WRITE (R470): a write by the host, which completes once every member has acknowledged it (R512), at once with no
members. -/
def execVcsWrite (k : Fin 16) (s : State) : Answer :=
  s.cmd k 0x0A01 fun r =>
    let x := r.cmd.n 8 8 - devBase
    let s := if r.started then s else s.vcsWrite .host (x / 0x10000) (x % 0x10000) (r.cmd.w 16) (k.val + 1)
    if s.tagHeld (k.val + 1) then s.started k.val else s.complete k.val stDone []

/-- The window through which Viari reaches a set of vats (R332, R517): broadcast for all, else one of its groups, which one is open
(log 34), with GRPMASK set. -/
def State.winFor (s : State) (vats : W64) : State × Nat :=
  if vats = 0xFFFFFFFFFFFFFFFF then (s, 80)
  else
    let n := 64 + Config.freeNat s.fresh % 8
    (s.draw.winWrite .viari n 0xF000 vats, n)

/-- TLB_INVAL (R332, R470, R517): writes of TLBI_ARG and TLBI_CMD to the vats of VATS through one window, the wait until the OR of
TLBI_STAT has BUSY at 0, and the read of the TOKEN accepted; a vat that does not complete in time is a cause of Safe Hold. The
TOKEN used is open (log 4). -/
def execTlbInval (k : Fin 16) (timedOut : BitVec 64) (s : State) : Answer :=
  s.cmd k 0x0A02 fun r =>
    let token := Config.freeNat s.fresh % 2 ^ 16
    let s := s.draw
    let cmd := setFld (r.cmd.w 16) 63 48 token
    let late := r.cmd.w 24 &&& timedOut
    let s := s.modVia fun v => { v with runs := v.runs.put k.val { r with started := true, count := token } }
    let (s, win) := s.winFor (r.cmd.w 24)
    let s := (s.vcsWrite .viari win 0x9810 (r.cmd.w 8)).vcsWrite .viari win 0x9818 cmd
    let s := allVats.foldl (fun s v => if bit (r.cmd.w 24) v && !bit late v then s.tlbiWait v else s) s
    let s := ((s.vcsRead .viari win 0x9820 (some 1)).1.vcsRead .viari win 0x9820 (some 0)).1
    if late = 0 then s.complete k.val stDone (toBytes 2 token)
    else s.cause 0x800B 0xFF 0xFF (toBytes 8 late.toNat) []

end Sys2Proof.Machine
end

