-- ==== Sys2Proof/Machine/ViariCfg.lean ====
section
/-! DEFINITION. Viari: configuration sets and recipe policy (R106, R455 to R458, R126, R310, R327, R334, R502). -/

namespace Sys2Proof.Machine

/-! ### Page tables of a set (R307 to R310) -/

/-- A valid entry found in a set's page tables. -/
structure Pte where
  pa : Nat
  level : Nat
  w : W64
  va : Nat
  deriving DecidableEq, Repr

/-- Whether an entry is a leaf (R309). -/
def Pte.leaf (p : Pte) : Bool := decide (p.level = 0) || (decide (p.level < 3) && bit p.w 1)

/-- The 8-byte entry at an address. -/
def State.entry (s : State) (pa : Nat) : W64 := BitVec.ofNat 64 (ofBytes (s.cpRead pa 8))

/-- Every valid entry reachable from a table, each before those below it; a malformed pointer is not followed. -/
def State.tree (s : State) : List Nat → Nat → Nat → List Pte
  | [], _, _ => []
  | lv :: rest, table, va =>
    ((List.range 512).map fun i =>
      let p : Pte := ⟨table + 8 * i, lv, s.entry (table + 8 * i), va + i * 2 ^ pageBits lv⟩
      if !bit p.w 0 then []
      else if p.leaf || pteBad p.w lv then [p]
      else p :: s.tree rest (fld p.w 47 12 * 4096) p.va).flatten

/-- The valid entries of the page tables at a root. -/
def State.treeOf (s : State) (root : W64) : List Pte := s.tree [3, 2, 1, 0] (fld root 47 12 * 4096) 0

/-- The entry at which the walk of an address stops: its address and value. -/
def State.stopAt (s : State) (va : Nat) : List Nat → Nat → Nat × W64
  | [], table => (table, 0)
  | lv :: rest, table =>
    let pa := table + 8 * (va / 2 ^ pageBits lv % 512)
    let p : Pte := ⟨pa, lv, s.entry pa, va⟩
    if !bit p.w 0 || p.leaf || pteBad p.w lv then (pa, p.w) else s.stopAt va rest (fld p.w 47 12 * 4096)

/-- Where the walk of an address from a root stops. -/
def State.walkStop (s : State) (root : W64) (va : Nat) : Nat × W64 :=
  s.stopAt va [3, 2, 1, 0] (fld root 47 12 * 4096)

/-- Frames in ascending order, each once, as 4 KiB frame numbers. -/
def frameSet (l : List Nat) : List Nat := (l.foldl (fun (m : AMap Unit) f => m.put f ()) []).map Prod.fst

/-- The frames of the page tables at a root: its own, and every one that a valid pointer names, whatever it holds (R502). -/
def tableFrames (root : W64) (t : List Pte) : List Nat :=
  fld root 47 12 :: (t.filter fun p => !p.leaf && !pteBad p.w p.level).map fun p => fld p.w 47 12

/-- The frames of a leaf. -/
def Pte.frames (p : Pte) : List Nat := (List.range (2 ^ (9 * p.level))).map fun i => fld p.w 47 12 + i

/-- The 4 KiB frames a set uses: its page tables and the frames of its leaves with L at 0 (R455, R502). -/
def State.setFrames (s : State) (c : CfgSet) : List Nat :=
  let t := s.treeOf c.root
  frameSet (tableFrames c.root t ++ ((t.filter fun p => p.leaf && !bit p.w 9).map Pte.frames).flatten)

/-- The 4 KiB frames that the leaves of a set map (R339). -/
def State.mappedFrames (s : State) (c : CfgSet) : List Nat :=
  frameSet (((s.treeOf c.root).filter fun p => p.leaf && !pteBad p.w p.level).map Pte.frames).flatten

/-- The leaves with L at 1 of a tree, without A, D and SW (R334). -/
def ledgerLeaves (t : List Pte) : List (Nat × Nat × W64) :=
  (t.filter fun p => p.leaf && bit p.w 9).map fun p => (p.va, p.level, p.w &&& ~~~bitsOf [(59, 52), (8, 7)])

/-! ### Descriptors (R76, R455) -/

/-- The descriptors of a KIND 1 buffer; none when a byte that must be 0 is not. -/
def descsOf : Nat → List Byte → Option (List (List Byte))
  | 0, l => if l.all (· = 0) then some [] else none
  | k + 1, l =>
    if l.length < 40 || (l.take 40).all (· = 0) then (if l.all (· = 0) then some [] else none)
    else (descsOf k (l.drop 40)).map fun r => l.take 40 :: r

/-- Whether a descriptor meets R76, R145 and R150 and has KINDS not 0. -/
def descOk (d : List Byte) : Bool :=
  let kinds := numAt d 2 1
  let limit := numAt d 3 1
  decide (1 ≤ kinds) && decide (kinds ≤ 3) && decide (12 ≤ limit) && decide (limit ≤ 30) &&
    decide (numAt d 8 4 % 16 = 0) && decide (numAt d 12 4 % 4 = 0) && decide (numAt d 32 1 / 8 % 2 = 0) &&
    decide (numAt d 33 1 ≤ 4) && decide (numAt d 34 1 < 32) && decide (numAt d 35 5 = 0)

/-- The RID of the first descriptor that is malformed or repeats an earlier RID (R456 check 1). -/
def badDesc : List (List Byte) → List Nat → Option Nat
  | [], _ => none
  | d :: l, seen =>
    let rid := numAt d 0 2
    if !descOk d || seen.contains rid then some rid else badDesc l (rid :: seen)

/-! ### The checks of CFG_ACTIVATE (R456) -/

/-- PTROOT, XVEC, TSBR and SCRW with a 1 in a reserved bit (R148, R162, R455). -/
def rootsBad (root xvec tsbr scrw : W64) : Bool :=
  (layout [] [] [(63, 48), (11, 0)]).hit root || (layout [] [] [(63, 48), (11, 0)]).hit xvec ||
    (layout [] [] [(63, 48), (8, 1)]).hit tsbr || (layout [] [] [(63, 48), (13, 1)]).hit scrw

/-- Whether a set names an enabled scratch window with its TSB wholly within it (R164). A TSBR whose VALID is 0 names no TSB
that could lie there: its set is refused too (log 42). -/
def CfgSet.windowOk (c : CfgSet) : Bool :=
  let w := fld c.scrw 31 14 * 2 ^ 14
  let t := fld c.tsbr 31 9 * 2 ^ 9
  bit c.scrw 0 && bit c.tsbr 0 && decide (fld c.tsbr 47 32 = fld c.scrw 47 32) && decide (w ≤ t) &&
    decide (t + 512 ≤ w + 2 ^ 14)

/-- The entry at which check 4 fails: a leaf of the new tables that the set in force has not, or the place where the walk
of a page it has stops in the new tables. -/
def State.ledgerDiff (s : State) (root : W64) (mine theirs : List Pte) : Option Nat :=
  let a := ledgerLeaves mine
  let b := ledgerLeaves theirs
  match (mine.filter fun p => p.leaf && bit p.w 9).find? fun p => !b.contains (p.va, p.level, p.w &&& ~~~bitsOf [(59, 52), (8, 7)]) with
  | some p => some p.pa
  | none => (b.find? fun x => !a.contains x).map fun x => (s.walkStop root x.1).1

/-- The first check that a staging fails: CHECK and WHERE. -/
def State.verifySet (s : State) (c : CfgSet) : Option (Nat × Nat) :=
  let t := s.treeOf c.root
  match badDesc c.descs [] with
  | some rid => some (1, rid)
  | none =>
    if rootsBad c.root c.xvec c.tsbr c.scrw || !c.windowOk then some (2, 0)
    else match t.find? fun p => pteBad p.w p.level with
      | some p => some (3, p.pa)
      | none =>
        let stops := c.descs.map fun d => s.walkStop c.root (numAt d 4 2 * 2 ^ 32 + numAt d 8 4)
        match stops.find? fun e => !bit e.2 0 || !bit e.2 4 with
        | some e => some (3, e.1)
        | none => match s.setFor s.trn.turn with
          | none => none
          | some cur => (s.ledgerDiff c.root t (s.treeOf cur.root)).map fun pa => (4, pa)

/-- The hash of a CONFIG record (R502). -/
def State.cfgHash (s : State) (c : CfgSet) : List Byte :=
  sha384 (c.descs.flatten ++ toBytes 8 c.root.toNat ++ toBytes 8 c.xvec.toNat ++ toBytes 8 c.tsbr.toNat ++
    toBytes 8 c.scrw.toNat ++ ((s.setFrames c).map fun f => toBytes 8 (f * 4096) ++ s.cpRead (f * 4096) 4096).flatten)

/-- A set in every valid leaf of a tree, and D with W (R327). -/
def State.setAD (s : State) (t : List Pte) : State :=
  (t.filter Pte.leaf).foldl (fun s p =>
    s.cpPut p.pa (toBytes 8 (setBit (setBit p.w 7 true) 8 (bit p.w 8 || bit p.w 3)).toNat)) s

/-- Pending sets: those of a later turn than the one that runs or is to come (R457, log 20). -/
def State.pendingSets (s : State) : List CfgSet := s.via.sets.filter fun c => decide (s.trn.turn < s.effOf c)

/-- The least effective turn that R457 permits, T + 2, and the greatest, T + 65,536. -/
def State.effRange (s : State) : Nat × Nat :=
  if s.ticking then (s.trn.turn + 2, s.trn.turn + 65536) else (s.trn.turn, s.trn.turn + 65534)

/-! ### The rows -/

/-- CFG_OPEN (R455). -/
def execCfgOpen (k : Fin 16) (s : State) : Answer :=
  s.cmd k 0x0300 fun r =>
    match s.via.stage with
    | some _ => s.complete k.val stState []
    | none =>
      let empty : CfgSet := ⟨s.via.nextVer, 0, 0, 0, 0, 0, []⟩
      let c := if r.cmd.b 8 = 0 then
          (s.setFor s.trn.turn).elim empty fun c => { c with ver := s.via.nextVer, eff := 0 }
        else empty
      (s.modVia fun v => { v with stage := some c, nextVer := v.nextVer + 1 }).complete k.val stDone (toBytes 4 c.ver)

/-- A CFG_LOAD of frames (R455): populated plain frames that no held set uses. -/
def State.cfgFrames (s : State) (k : Nat) (c : Cmd) (buf : DmaIn) : State :=
  let pa := c.n 16 8
  let n := c.bufLen 24
  let frames := (List.range ((n + 4095) / 4096)).map fun i => pa / 4096 + i
  let used := (s.heldSets.map s.setFrames).flatten
  if frames.any fun f => decide (s.region (f * 4096) ≠ .plain) then s.complete k stRange []
  else if s.via.stage.isNone || frames.any fun f => used.contains f then s.complete k stState []
  else match buf with
    | none => s.complete k stDmaRead []
    | some d => (s.wr pa (c.input 24 d)).complete k stDone (toBytes 4 n)

/-- CFG_LOAD (R455). -/
def execCfgLoad (k : Fin 16) (buf : DmaIn) (s : State) : Answer :=
  s.cmd k 0x0301 fun r =>
    let c := r.cmd
    if c.b 8 ≠ 1 then s.cfgFrames k.val c buf
    else match buf.map fun d => descsOf (c.bufLen 24 / 40 + 1) (c.input 24 d), s.via.stage with
      | some none, _ => s.complete k.val stMalformed []
      | _, none => s.complete k.val stState []
      | none, some _ => s.complete k.val stDmaRead []
      | some (some l), some st =>
        (s.modVia fun v => { v with stage := some { st with descs := l } }).complete k.val stDone (toBytes 4 (c.bufLen 24))

/-- CFG_ROOT (R455). -/
def execCfgRoot (k : Fin 16) (s : State) : Answer :=
  s.cmd k 0x0302 fun r =>
    let c := r.cmd
    if rootsBad (c.w 8) (c.w 16) (c.w 24) (c.w 32) then s.complete k.val stMalformed []
    else match s.via.stage with
      | none => s.complete k.val stState []
      | some st =>
        let st := { st with root := c.w 8, xvec := c.w 16, tsbr := c.w 24, scrw := c.w 32 }
        (s.modVia fun v => { v with stage := some st }).complete k.val stDone []

/-- The set installed with an effective turn (R327, R352, R457): A and D, instruction caches, the CONFIG record. -/
def State.installSet (s : State) (k : Nat) (c : CfgSet) : State :=
  let s := s.setAD (s.treeOf c.root)
  let s := { s with engs := s.engs.map fun (g : Nat × Eng) => (g.1, { g.2 with mem := { g.2.mem with icache := [] } }) }
  let s := s.modVia fun v =>
    { v with
      sets := v.sets ++ [c]
      stage := none
      runs := match v.runs.find k with
        | some r => v.runs.put k { r with count := c.ver }
        | none => v.runs }
  s.jrnAppend (k + 1) (s.jrnRec 0x0003 s.trn.turn (toBytes 6 c.eff ++ toBytes 4 c.ver ++ List.replicate 6 0 ++ s.cfgHash c))

/-- CFG_ACTIVATE (R456, R457, R635): the frames of the set are read (R529), the checks made, then the set is pending with its
effective turn. -/
def execCfgActivate (k : Fin 16) (s : State) : Answer :=
  s.cmd k 0x0303 fun r =>
    let e := r.cmd.n 8 6
    let done (ver : Nat) : List Byte := toBytes 4 ver ++ toBytes 6 e
    if r.started then s.afterRecord k.val (done r.count)
    else if s.effRange.2 < e then s.complete k.val stRange []
    else match s.via.stage with
      | none => s.complete k.val stState []
      | some c =>
        let s := s.cpErrors (s.setFrames c)
        if 2 ≤ s.pendingSets.length then s.complete k.val stState []
        else match s.verifySet c with
          | some (check, pa) =>
            s.complete k.val stVerify (done c.ver ++ [BitVec.ofNat 8 check] ++ List.replicate 5 0 ++ toBytes 8 pa)
          | none =>
            if e < s.effRange.1 || s.pendingSets.any fun p => decide (e ≤ p.eff) then s.complete k.val stTurn []
            else (s.installSet k.val { c with eff := e }).afterRecord k.val (done c.ver)

/-- CFG_ABANDON (R458). -/
def execCfgAbandon (k : Fin 16) (s : State) : Answer :=
  s.cmd k 0x0304 fun _ =>
    if s.via.stage.isNone then s.complete k.val stState []
    else (s.modVia fun v => { v with stage := none }).complete k.val stDone []

/-- CFG_QUERY (R444, R458). -/
def execCfgQuery (k : Fin 16) (s : State) : Answer :=
  s.cmd k 0x0305 fun _ =>
    let ver (c : Option CfgSet) : List Byte := toBytes 4 (c.elim 0 CfgSet.ver) ++ toBytes 6 (c.elim 0 CfgSet.eff)
    s.complete k.val stDone
      (ver (s.setFor s.trn.turn) ++ ver s.pendingSets[0]? ++ ver s.pendingSets[1]? ++
        [if s.via.stage.isSome then 1 else 0, 0] ++ toBytes 4 (s.heldSets.head?.elim 0 CfgSet.ver))

/-- RECIPE_POLICY (R126, R460). -/
def execRecipePolicy (k : Fin 16) (s : State) : Answer :=
  s.cmd k 0x0405 fun r =>
    (s.modRecipe (r.cmd.n 8 2) fun x => { x with policy := r.cmd.b 10 }).complete k.val stDone []

end Sys2Proof.Machine
end

