-- ==== Sys2Proof/Machine/ViariLedger.lean ====
section
/-! DEFINITION. Viari: regions, ledger map, loads and reads, wheel homes and storage keys (R459 to R461, R26, R115, R131,
R132, R334, R339, R364, R504). -/

namespace Sys2Proof.Machine

/-- REGION_SET (R26, R459): the ledger window and the firmware windows as the image places them; the home map starts
again (R115). -/
def execRegionSet (k : Fin 16) (s : State) : Answer :=
  s.cmd k 0x0400 fun r =>
    let w := r.cmd.w 8
    let ldg := lRgn.write s.via.rgnLdg w
    let (fwh, fwd) := Config.fwWindows s.via.fw.image s.mem.ddrGib
    if !s.rgnsOk ldg fwh fwd then s.complete k.val stRange []
    else if (s.setFor s.trn.turn).elim false (fun c => !(ledgerLeaves (s.treeOf c.root)).isEmpty) then
      s.complete k.val stState []
    else
      let s := (s.putLedger ldg).modVia fun v =>
        { v with rgnFwh := fwh, rgnFwd := fwd, saStat := v.saStat || lRgn.hit w }
      s.complete k.val stDone (toBytes 8 fwh.toNat ++ toBytes 8 fwd.toNat)

/-- An OP that Viari carries out in every vat not in reset (R328, R332, R517): the broadcast writes, the wait until the OR
of TLBI_STAT has BUSY at 0, and the read of the TOKEN accepted. -/
def State.tlbiAll (s : State) (arg cmd : W64) : State :=
  let s := allVats.foldl (fun s v => s.tlbiWait v) (s.tlbiIssue arg cmd).1
  ((s.vcsRead .viari 80 0x9820 (some 1)).1.vcsRead .viari 80 0x9820 (some 0)).1

/-- LEDGER_MAP (R334, R459): the steps of R328 on the listed entries of the page tables of the set in force: each written
with V at 0, then OP ALL with INCG in every vat and its completion, then the new values. An address that is no entry of those
tables is out of range (log 21). The checks of R444 in order, as far as the buffer is needed for one. -/
def execLedgerMap (k : Fin 16) (buf : DmaIn) (s : State) : Answer :=
  s.cmd k 0x0401 fun r =>
    let c := s.setFor s.trn.turn
    let refused := c.isNone || !s.pendingSets.isEmpty
    match buf with
    | none => s.complete k.val (if refused then stState else stDmaRead) []
    | some d =>
      let d := r.cmd.input 8 d
      let n := r.cmd.bufLen 8 / 16
      let l := (List.range n).map fun i => (numAt d (16 * i) 8, slice d (16 * i + 8) 8)
      let frames := c.elim [] fun c => frameSet (tableFrames c.root (s.treeOf c.root))
      if !l.all fun e => e.1 % 8 = 0 && (c.isNone || frames.contains (e.1 / 4096)) then s.complete k.val stRange []
      else if refused then s.complete k.val stState []
      else
        let s := s.cpErrors frames
        let s := l.foldl (fun s e => s.cpPut e.1 (toBytes 8 (setBit (s.entry e.1) 0 false).toNat)) s
        let s := l.foldl (fun s e => s.cpPut e.1 e.2) (s.tlbiAll 0 0x24)
        s.complete k.val stDone (toBytes 4 n)

/-- LEDGER_LOAD (R459, R502, R504, R635): lines written directly, and the record with the chain value that follows. -/
def execLedgerLoad (k : Fin 16) (buf : DmaIn) (s : State) : Answer :=
  s.cmd k 0x0402 fun r =>
    let n := r.cmd.bufLen 16
    if r.started then s.afterRecord k.val (toBytes 4 n)
    else match buf with
      | none => s.complete k.val stDmaRead []
      | some d =>
        let d := r.cmd.input 16 d
        let pa := r.cmd.n 8 8
        let s := s.finishRelease.wr pa d
        let h := sha384 d
        let chain := sha384 (s.prs.chain ++ toBytes 8 pa ++ toBytes 4 n ++ h)
        let s := s.modPrs fun p => { p with chain := chain }
        let s := s.jrnAppend (k.val + 1) (s.jrnRec 0x0004 s.trn.turn
          (toBytes 8 pa ++ toBytes 4 n ++ List.replicate 4 0 ++ h ++ chain))
        s.afterRecord k.val (toBytes 4 n)

/-- LEDGER_READ (R364, R459): the released batch, the same for every byte. A line in error puts the device in Safe Hold
(R529). -/
def execLedgerRead (k : Fin 16) (out : DmaOut) (v : Env) (s : State) : Answer :=
  s.cmd k 0x0403 fun r =>
    let pa := r.cmd.n 8 8
    let n := r.cmd.bufLen 16
    match (List.range (n / 64)).find? fun i => s.bad (ueLines v) (pa + 64 * i) with
    | some i => s.ueSafe (pa + 64 * i) 4
    | none =>
      let x := s.output r 16 ((List.range n).map fun i => s.relByte (pa + i)) out
      let res (m : Nat) : List Byte := toBytes 6 (s.prs.relBatch.getD 0) ++ [0, 0] ++ toBytes 4 m
      match x.2 with
      | none => x.1.complete k.val stDone (res n)
      | some m => x.1.complete k.val stDmaWrite (res m)

/-- An explicit home carried out at once (R131, R132, R460): one that leaves the wheel at its vat moves nothing. -/
def State.homeNow (s : State) (w byte slot : Nat) : State :=
  if s.pinOnly w byte then (s.setHome w byte).homeDone slot else s.moveEnds w byte slot

/-- Moves of a command that are left, carried out at once in Standby (R460). -/
def State.movesNow (s : State) (k : Nat) : State :=
  let l := s.prs.moves.filter fun m => m.slot = k
  let s := s.modPrs fun p => { p with moves := p.moves.filter fun m => m.slot ≠ k }
  l.foldl (fun s m => s.homeNow m.wheel m.byte.toNat (k + 1)) s

/-- WHEEL_HOME (R132, R460): explicit homes and pins; in Standby at once, else from the next release point on. -/
def execWheelHome (k : Fin 16) (buf : DmaIn) (s : State) : Answer :=
  s.cmd k 0x0404 fun r =>
    if r.started then (if s.dev.mode = 3 then s.movesNow k.val else s)
    else match buf with
      | none => s.complete k.val stDmaRead []
      | some d =>
        let d := r.cmd.input 8 d
        let n := r.cmd.bufLen 8 / 4
        let l := (List.range n).map fun i => (numAt d (4 * i) 3, d.getD (4 * i + 3) 0)
        if l.all fun e => bit s.via.rgnLdg 0 && decide (e.1 ≤ fld s.via.rgnLdg 63 44) && !e.2.getLsbD 6 then
          if s.dev.mode = 3 then
            (l.foldl (fun s e => s.homeNow e.1 e.2.toNat 0) s).complete k.val stDone (toBytes 4 n)
          else
            (s.modPrs fun p => { p with moves := p.moves ++ l.map fun e => ⟨e.1, e.2, k.val⟩ }).started k.val
        else s.complete k.val stRange []

/-- KEY_SET (R335, R339, R461): key bytes written, then OP FRAME with INCG for each frame in every vat. -/
def execKeySet (k : Fin 16) (s : State) : Answer :=
  s.cmd k 0x0406 fun r =>
    let first := r.cmd.n 8 8 / 4096
    let n := r.cmd.n 16 4
    let pa (i : Nat) : Nat := (first + i) * 4096
    let frames := List.range n
    if !frames.all fun i => isHbm (pa i) || s.isDdr (pa i) then s.complete k.val stRange []
    else
      let used := (s.heldSets.map s.mappedFrames).flatten
      let taken := frames.any fun i => inRgn s.via.rgnLdg (pa i) || used.contains (first + i)
      if taken && !s.quiet then s.complete k.val stState []
      else
        let key := BitVec.ofNat 8 (r.cmd.b 20)
        let s := s.modMem fun m =>
          { m with keys := frames.foldl (fun keys i => writeByte keys (keyIdx (pa i)) key) m.keys }
        (frames.foldl (fun s i => s.tlbiAll (BitVec.ofNat 64 (pa i)) 0x23) s).complete k.val stDone []

end Sys2Proof.Machine
end

