-- ==== Sys2Proof/Machine/Memory.lean ====
section
/-! DEFINITION. The memory controllers: patrol scrub, refresh, tracking windows and DIMM alerts (R522 to R534, R614). -/

namespace Sys2Proof.Machine

/-- A controller's registers. -/
def State.mc (s : State) (i : Nat) : Mc := s.mem.mcs.get i {}

/-- Whether a controller is trained and initialised (R527, R534). -/
def State.mcReady (s : State) (i : Nat) : Bool := bit (s.mc i).info 0

/-- Whether memory tracking runs in a mode (R555). -/
def State.trackingMode (s : State) : Bool := decide (2 ≤ s.dev.mode) && decide (s.dev.mode ≤ 10)

/-- The turn, modulo 128, of a controller's tracking window (R61). -/
def windowTurn (i : Nat) : Nat := if i < 4 then 64 + i else i - 4

/-- TRACKING_WINDOW (R531, R62): a window opens at its tick, or is deferred while the one before is open; or it closes and
is counted. -/
def execTrackingWindow (mc : Fin 12) (closes : Bool) (s : State) : Answer :=
  let i := mc.val
  let m := s.mc i
  if !s.trackingMode || !s.mcReady i then .next s
  else if closes then
    if m.window then .next (s.modMc i fun m => { m with window := false, stat := satFld m.stat 47 32 1 }) else .next s
  else if s.ticking && (s.trn.tick ≠ 49152 || s.trn.turn % 128 ≠ windowTurn i) then .next s
  else if m.window then .next (s.modMc i fun m => { m with stat := satFld m.stat 63 48 1 })
  else .next (s.modMc i fun m => { m with window := true })

/-- Whether a line lies in the commit log (R28, R134). -/
def State.inClog (s : State) (pa : Nat) : Bool :=
  let a := Config.clogArea s.via.fw.image
  let b := rgnBase s.via.rgnFwd + a.1
  bit s.via.rgnFwd 0 && decide (b ≤ pa) && decide (pa < b + a.2)

/-- SCRUB (R526, R528, R529): the patrol scrub reads a line, corrects it and writes it back, unless a write of the line came
between. An uncorrectable line of the ledger or the commit log puts the device in Safe Hold; any other is poisoned. -/
def execScrub (mc : Fin 12) (line : Nat) (r : Ecc) (raced : Bool) (s : State) : Answer :=
  let i := mc.val
  let pa := 64 * line
  if !s.mcReady i || !bit (s.mcScrub i) 0 || !(isHbm pa || s.isDdr pa) || mcOf pa ≠ i then .next s
  else if !eccCorrects (isHbm pa) r || s.mem.poison.contains line then
    if inRgn s.via.rgnLdg pa || s.inClog pa then .next (s.ueSafe pa 3)
    else
      let s := s.ueRecord pa 3 false
      if raced then .next s
      else .next ((s.modMem fun m =>
        { m with poison := if m.poison.contains line then m.poison else line :: m.poison }).modMc i fun m =>
          { m with stat := setBit m.stat 6 true })
  else if r = {} then .next s
  else .next (s.modMc i fun m => { m with stat := setBit m.stat 4 true, ce := satAdd m.ce 1 })

/-- REFRESH (R532): refresh and ZQ calibration; TEMPHI follows the refresh rate. -/
def execRefresh (mc : Fin 12) (hot : Bool) (s : State) : Answer :=
  if s.mcReady mc.val then .next (s.modMc mc.val fun m => { m with stat := setBit m.stat 7 hot }) else .next s

/-- DDR_ALERT (R614): the controllers of a side find the alerting channel over the sideband bus of that side. -/
def execDdrAlert (side : Fin 2) (channel : Fin 4) (s : State) : Answer :=
  if s.mcReady (4 + 4 * side.val + channel.val) then .next (s.emit (.ddrSideband side.val (4 * side.val + channel.val)))
  else .next s

end Sys2Proof.Machine
end

