-- ==== Sys2Proof/Machine/Power.lean ====
section
/-! DEFINITION. Power, clocks and adaptive loops: AVSBus failures, the voltage and frequency loop, the power and thermal
caps, the droop guard, the thermal trip, and SerDes adaptation (R535 to R557). -/

namespace Sys2Proof.Machine

/-- A vat's frequency in MHz (R557). -/
def Vat.freq (x : Vat) : Nat := fld x.vfStat 63 52

/-! ### The caps (R549, R550) -/

/-- The power cap at a retarget. -/
def nextCapP (ctl bound : W64) (cap est : Nat) : Nat :=
  let lim := fld ctl 63 52
  if !bit ctl 2 then fld bound 47 32
  else if lim < est then max (fld bound 63 48) (cap - 25)
  else if 100 * est < 96 * lim then min (fld bound 47 32) (cap + 25)
  else cap

/-- The thermal cap at a retarget. -/
def nextCapT (ctl : W64) (cap tmax : Nat) : Nat :=
  let lim := fld ctl 51 44
  if !bit ctl 3 then 1800
  else if lim ≤ tmax then max 1200 (cap - 50)
  else if tmax + 3 < lim then min 1800 (cap + 25)
  else cap

/-! ### The loop of a vat (R545 to R548) -/

/-- Whether a vat is pinned (R545). -/
def Vat.isPinned (x : Vat) (v : Nat) : Bool := bit x.pinned v

/-- LIM of a vat (R545 step 2). The thermal cap applies to a pinned vat too (R550, log 22). -/
def Vat.lim (x : Vat) (v capP capT : Nat) : Nat :=
  let b := x.pwrBound
  if x.isPinned v then min (fld b 31 16) capT
  else max (fld b 63 48) (min (fld b 47 32) (min capP capT))

/-- The frequency a vat may not yet exceed: its present one, or that of a drop under way. -/
def Vat.now (x : Vat) : Nat := x.target.getD x.freq

/-- Steps 3 and 4 of R545: a drop begins at once; a raise asks for its supply. -/
def Vat.move (x : Vat) (lim step : Nat) (busy : Bool) : Vat :=
  let f := x.now
  if lim < f then { x with target := some lim, raise := none }
  else match x.raise with
    | some t => if lim < t then { x with raise := none } else x
    | none =>
      if f < lim && bit x.pwrCtl 1 && !busy then
        let k := min (fld x.pwrCtl 43 40) ((lim - f) / 25)
        { x with raise := some (f + 25 * k), need := roundNeed (x.need + k * step) }
      else x

/-- Step 5 of R545: a raise is under way until its glide has ended. In a row whose AVSBus failed nothing is raised (R543). -/
def Vat.adapt (x : Vat) (margin : Nat) (bad : Bool) : Vat :=
  if !bit x.pwrCtl 1 then x
  else if 16 < margin && x.raise.isNone && decide (x.now ≤ x.freq) then { x with need := roundNeed (x.need - 5) }
  else if margin < 8 && !bad then { x with need := roundNeed (x.need + 5) }
  else x

/-- VF_STAT.LIMIT (R557, log 22). -/
def Vat.limitCode (x : Vat) (v capP capT : Nat) (bad : Bool) : Nat :=
  if bad then 5
  else if x.raise.isSome then 4
  else if !bit x.pwrCtl 1 && decide (x.now < x.lim v capP capT) then 6
  else
    let top := fld x.pwrBound 47 32
    if capT < (if x.isPinned v then fld x.pwrBound 31 16 else min top capP) then 2
    else if x.isPinned v then 3
    else if capP < top then 1
    else 0

/-- The retarget of one vat (R545), which takes the values of its controller's registers (R556). MARGIN is the least slack that its
CPMs reported since the last one, those that made the droop guard act among them (R544). LIMIT names what bounds FREQ as the
retarget found it (log 22). -/
def State.retargetVat (s : State) (v capP capT : Nat) (r : VatReading) : State :=
  let rail := s.rail (v / 8)
  let step := fld s.pwr.avs 15 8
  s.modVat v fun x =>
    let margin := x.dip.elim r.margin (min r.margin)
    let x := (x.move (x.lim v capP capT) step (rail.pend.isSome || rail.bad)).adapt margin rail.bad
    let code := x.limitCode v capP capT rail.bad
    { x with
      vfStat := setFld (setFld (setFld x.vfStat 39 32 r.celsius) 31 24 margin) 4 2 code
      dip := none, took := x.pwrCtl, tookBound := x.pwrBound }

/-- Whether the adaptive loops run (R555). -/
def State.loopsRun (s : State) : Bool := decide (3 ≤ s.dev.mode) && decide (s.dev.mode ≤ 8)

/-- Whether a retarget is due: at its tick, at tick 0 after the release point and the placement moves, or on the vats' own
timers while no ticks are issued (R545, R61). -/
def State.retargetDue (s : State) : Bool :=
  s.loopsRun && (!s.ticking || (decide (s.trn.tick % 4096 = 0) && !s.trn.fresh && !s.prs.select))

/-- Whether every unpinned vat stands at FLO (R549). -/
def State.atFloor (s : State) : Bool :=
  allVats.all fun v => (s.vat v).isPinned v || decide ((s.vat v).freq ≤ fld s.pwr.bound 63 48)

/-- VF_RETARGET (R544, R545, R549, R550): the power and thermal loops set their caps, then every vat retargets and the
rails follow. -/
def execVfRetarget (r : List VatReading) (watts : Nat) (s : State) : Answer :=
  if !s.retargetDue then .next s
  else
    let s := s.riseOut
    let est := min 4095 ((watts : Int) + s.pwr.corr).toNat
    let tmax := min 255 (r.foldl (fun m x => max m x.celsius) 0)
    let st := s.pwr.status
    let capP := nextCapP s.pwr.ctl s.pwr.bound (fld st 43 32) est
    let capT := nextCapT s.pwr.ctl (fld st 31 20) tmax
    let floor := bit s.pwr.ctl 2 && decide (fld s.pwr.ctl 63 52 < est) && s.atFloor
    let s := s.modPwr fun p => { p with
      status := setFld (setFld (setFld (setFld p.status 63 52 est) 51 44 tmax) 43 32 capP) 31 20 capT, low := false
      raw := some watts }
    let s := if floor && !bit st 4 then
        (s.modPwr fun p => { p with status := setBit p.status 4 true }).caveRec 0x8007 0xFF 0xFF (toBytes 2 est)
      else s
    let s := allVats.foldl (fun s v => s.retargetVat v capP capT (r.getD v ⟨0, 0⟩)) s
    .next ((List.range 8).foldl (fun s row => s.adjustRow row) s)

/-- RAIL_SETTLED (R542, R545 step 4): SETTLE_US after a write the rail stands at it, TRIMs follow, and a raise whose
supply stands at its need with MARGIN at least 8 begins to glide. With no write pending the supply already stands. -/
def execRailSettled (row : Fin 8) (margins : List Nat) (s : State) : Answer :=
  let k := row.val
  if s.dev.mode = 0 then .next s
  else
    let s := s.modRail k fun r => { r with mv := r.pend.getD r.mv, pend := none }
    let s := s.trimRow k (s.rail k).mv
    let s := (List.range 8).foldl (fun s c => s.modVat (8 * k + c) fun x => match x.raise with
      | none => x
      | some f =>
        if x.need + x.trim ≤ (s.rail k).mv && decide (8 ≤ margins.getD c 0) then
          { x with target := some f, raise := none }
        else x) s
    .next (s.adjustRow k)

/-- GLIDE_COMPLETE (R537, R545 step 3): the clock reaches its new frequency; after a drop the need follows, but with VF_EN at 0
it stays where it stood (R548). -/
def execGlideComplete (vat : VatId) (s : State) : Answer :=
  let v := vat.val
  match (s.vat v).target with
  | none => .next s
  | some f =>
    let step := fld s.pwr.avs 15 8
    let s := s.modVat v fun x =>
      let need := if f < x.freq && bit x.took 1 then roundNeed (x.need - (x.freq - f) / 25 * step) else x.need
      { x with target := none, vfStat := setFld x.vfStat 63 52 f, need := need }
    .next (s.adjustRow (v / 8))

/-- DROOP_GUARD (R547): the frequency falls by DROOP steps, as the vat last took that value (R556), at once, to 1.2 GHz at least,
until the next retarget. The slack reported, below 2 %, is open (log 4) and lowers MARGIN (R544, R557). -/
def execDroopGuard (vat : VatId) (s : State) : Answer :=
  if s.dev.mode = 0 then .next s
  else .next (s.draw.modVat vat.val fun x =>
    let slack := Config.freeNat s.fresh % 4
    let f := max 1200 (x.freq - 25 * fld x.took 39 36)
    { x with
      vfStat := satFld (setFld (setFld x.vfStat 63 52 f) 31 24 (min (fld x.vfStat 31 24) slack)) 23 8 1
      dip := some (x.dip.elim slack (min slack))
      target := x.target.bind fun t => if t < f then some t else none
      raise := none })

/-- POWER_RECALIBRATION (R549): the correction that brings the last sum of the estimates to the telemetry of rails 0 to 9. -/
def execPowerRecalibration (watts : Nat) (s : State) : Answer :=
  match s.loopsRun, s.pwr.raw with
  | true, some sum => .next (s.modPwr fun p => { p with corr := (watts : Int) - sum })
  | _, _ => .next s

/-- THERMAL_TRIP (R551): at 115 °C or more every vat is lowered and the device enters Safe Hold, in every mode but Dormant
(log 22). -/
def execThermalTrip (vat : VatId) (celsius : Nat) (s : State) : Answer :=
  if celsius < 115 || s.dev.mode = 0 || s.dev.bscan then .next s
  else
    let s := (s.modPwr fun p => { p with status := setBit p.status 3 true }).lowVats
    .next (s.cause 0x8008 vat.val 0xFF [BitVec.ofNat 8 vat.val, BitVec.ofNat 8 celsius] [])

/-- Whether no rail's AVSBus transactions fail (R543). -/
def State.avsGood (s : State) : Bool := s.pwr.rails.all fun r => !r.2.bad

/-- AVSBUS_FAILURE (R543): after three failed attempts, of a write or of a read of rails 0 to 9 (R539), the failure is counted and
recorded. A row rail stands at its last acknowledged voltage, and every vat of the row goes down to FLO. -/
def execAvsbusFailure (rail : Fin 10) (s : State) : Answer :=
  let k := rail.val
  if s.dev.mode = 0 then .next s
  else
    let s := s.modPwr fun p => { p with status := setBit (satFld p.status 19 12 1) 0 false }
    let s := (s.modRail k fun r => { r with pend := none, bad := true }).caveRec 0x8006 0xFF 0xFF [BitVec.ofNat 8 k]
    if 8 ≤ k then .next s else
    let s := (rowVats k).foldl (fun s v => s.modVat v fun x =>
      let flo := fld x.tookBound 63 48
      { x with
        target := if flo < x.freq then some (min flo (x.target.getD flo)) else x.target.filter fun t => decide (t ≤ x.freq)
        raise := none }) s
    .next (s.adjustRow k)

/-- AVSBUS_RETRY_READ (R543): a rail read that succeeds puts the rail back in service. -/
def execAvsbusRetryRead (rail : Fin 10) (answer : Option Nat) (s : State) : Answer :=
  match answer with
  | none => .next s
  | some mv =>
    let k := rail.val
    if !(s.rail k).bad then .next s
    else
      let s := s.modRail k fun r => { r with mv := mv, bad := false }
      let s := s.modPwr fun p => { p with status := setBit p.status 0 s.avsGood }
      .next (if 8 ≤ k then s else s.adjustRow k)

/-! ### SerDes (R553) -/

/-- The receivers of a link: PCIe lanes 0 to 15, Ethernet lane 4u + j at 16 + 4u + j (R553, R614). -/
def State.receivers (s : State) : SerdesLink → List Nat
  | .pcie => List.range 16
  | .eth port sub =>
    if s.itk.speed.find port.val = some 2 then [16 + 4 * port.val + sub.val]
    else (List.range 4).map fun j => 16 + 4 * port.val + j

/-- Whether a receiver's link is up, and whether its group is frozen. -/
def State.receiverUp (s : State) (r : Nat) : Bool :=
  if r < 16 then s.host.linkUp && !bit s.pwr.srd 0
  else
    let port := (r - 16) / 4
    let sub := if s.itk.speed.find port = some 2 then (r - 16) % 4 else 0
    (s.sub port sub).up && !bit s.pwr.srd (1 + port)

/-- A coefficient moved at most one step towards its optimum. -/
def towards (c o : Int) : Int := if c < o then c + 1 else if o < c then c - 1 else c

/-- SERDES_BACKGROUND_ADAPT (R553): each coefficient of a link that is up and not frozen moves one step. -/
def execSerdesBackgroundAdapt (optimum : List (List Int)) (s : State) : Answer :=
  if !bit s.pwr.srd 5 || !(decide (2 ≤ s.dev.mode) && decide (s.dev.mode ≤ 8)) then .next s
  else
    let l := (List.range 32).filter fun r => s.receiverUp r
    .next (s.modPwr fun p => { p with coefs := l.foldl (fun m r =>
      let c := m.get r (List.replicate 6 0)
      let o := optimum.getD r []
      m.put r ((List.range c.length).map fun i => towards (c.getD i 0) (o.getD i (c.getD i 0)))) p.coefs })

/-- LINK_TRAINING (R553, R617): a link trains and adapts fully. An Ethernet sub-port trains once it is configured. -/
def execLinkTraining (link : SerdesLink) (coefs : List (List Int)) (s : State) : Answer :=
  let ok := match link with
    | .pcie => s.pcieMay
    | .eth port sub => decide (2 ≤ s.dev.mode) && (s.sub port.val sub.val).set &&
        (s.itk.speed.find port.val = some 2 || sub.val = 0)
  if !ok then .next s
  else
    let l := s.receivers link
    let s := s.modPwr fun p => { p with coefs := (l.zip coefs).foldl (fun m r => m.put r.1 r.2) p.coefs }
    match link with
    | .pcie => .next s.pcieUp
    | .eth port sub => .next (s.modSub port.val sub.val fun x => { x with up := true })

end Sys2Proof.Machine
end

