-- ==== Sys2Proof/Machine/SelfTest.lean ====
section
/-! DEFINITION. Self-test: engine slices and their rotation, vat-store and link slices, map-out and spares (R583 to R595,
R467). -/

namespace Sys2Proof.Machine

/-! ### Engines held for test (R583 to R586, R591) -/

/-- A slot enters STATE 3: its slice runs (R585 step 2). -/
def State.beginSlice (s : State) (v k : Nat) (off : Bool) : State :=
  (s.modVat v fun x => { x with slot := some k, offrot := off }).modEng (18 * v + k) fun g =>
    { g.reset with mode := .slice, hold := true, drain := false }

/-- An engine slice of a vat deferred (R62, R595). -/
def State.deferSlice (s : State) (v : Nat) : State := s.modVat v fun x => { x with stStat := satFld x.stStat 47 40 1 }

/-- ENGINE_SLICE (R585, R62, R589): the standby engine is tested; a vat with at most 16 live engines drains NEXT first. A slice
of either kind that still runs in the vat defers it. -/
def execEngineSlice (vat : VatId) (s : State) : Answer :=
  let v := vat.val
  let x := s.vat v
  let due := if s.ticking then decide (s.trn.tick = 4096) && decide (s.trn.turn % 1024 = 16 * v) else decide (s.dev.mode = 3)
  let e := 18 * v + x.next
  if !due || x.inReset || x.live = 0 then .next s
  else if x.slot.isSome || x.back.isSome || x.region.isSome then .next (s.deferSlice v)
  else if 17 ≤ x.live then
    match x.standby with
    | some k => .next ((s.modVat v fun x => { x with stStat := setFld x.stStat 58 54 0x1F }).beginSlice v k false)
    | none => .next ((s.deferSlice v).drainNext v)
  else match (s.eng e).mode with
    | .running => .next (if (s.eng e).drain then s.deferSlice v
        else s.modEng e fun g => { g with drain := true, drained := false })
    | .held => .next (s.beginSlice v x.next false)
    | _ => .next (s.deferSlice v)

/-- RESULT of ENGINE_MAP: FEAT0.LIVE after. -/
def State.liveResult (s : State) : List Byte := toBytes 2 s.live

/-- The ENGINE_MAP that drains an engine (R594), by its slot. -/
def State.mapRun (s : State) (e : Nat) : Option Nat :=
  (s.via.runs.find? fun r => r.2.cmd.code = 0x0802 && r.2.started && 18 * r.2.cmd.b 8 + r.2.cmd.b 9 = e).map Prod.fst

/-- ENGINE_DRAIN_COMPLETE (R585, R594): a draining engine whose attempt has ended, or that waits with none, is held: for
ENGINE_MAP it is mapped out, with 17 or more live engines it is standby, else its slice runs. Where another slot has become
standby meanwhile it goes on executing (R583). -/
def execEngineDrainComplete (e : EngId) (s : State) : Answer :=
  let n := e.val
  let v := vatOf n
  let k := slotOf n
  let g := s.eng n
  if !g.drain || g.att.isSome || (g.wait.isNone && !g.drained) || g.mode ≠ .running then .next s
  else if (s.mapRun n).isNone && decide (17 ≤ (s.vat v).live) && (s.vat v).standby.isSome then
    .next (s.modEng n fun g => { g with drain := false })
  else
    let s := (s.resetEng n).modEng n fun g => { g with mode := .held, hold := true, drain := false }
    match s.mapRun n with
    | some c =>
      let s := (s.mapOut n 5).rebalance v
      .next (s.complete c stDone s.liveResult)
    | none =>
      if 17 ≤ (s.vat v).live then .next (s.toStandby v k)
      else if (s.vat v).slot.isSome then .next (s.deferSlice v |>.returnEng n)
      else .next (s.beginSlice v k false)

/-- SLICE_DRAIN_TIMEOUT (R585 step 1): an engine not held by the end of the turn returns to executing and the slice is
deferred. A drain for ENGINE_MAP has no time limit (R594). -/
def execSliceDrainTimeout (vat : VatId) (s : State) : Answer :=
  let v := vat.val
  let x := s.vat v
  let e := 18 * v + x.next
  if (s.ticking && s.trn.tick ≠ 65535) || 17 ≤ x.live || x.slot.isSome || !(s.eng e).drain ||
      (s.mapRun e).isSome then .next s
  else .next ((s.modEng e fun g => { g with drain := false }).deferSlice v)

/-- A Slice Failure record (R608): kind, number, MISR read and expected. -/
def State.sliceFailure (s : State) (kind v k n : Nat) (read expected : W64) : State :=
  s.caveRec 0x8003 v k ([BitVec.ofNat 8 kind, BitVec.ofNat 8 n] ++ toBytes 8 read.toNat ++ toBytes 8 expected.toNat)

/-- The end of an engine slice counted (R595). -/
def State.countSlice (s : State) (v k : Nat) (pass : Bool) : State :=
  s.modVat v fun x =>
    { x with
      stStat := setBit (setFld x.stStat 53 49 k) 48 (!pass)
      stCount := if pass then satFld x.stCount 63 32 1 else satFld x.stCount 31 16 1 }

/-- The Salvage code of the image in engine-local SRAM, the rest 0 (R398, R580). -/
def State.salvageSram (s : State) : Bytes := writeBytes [] 0x2000 ((Config.salvageCode s.via.fw.image).take 0x2000)

/-- What a passed slice leaves in an engine, held once more (R585 step 3): Salvage code, written through SRAM_DATA as R511 states,
patch, and a scratch store that MBIST cleared. -/
def State.restoreEng (s : State) (e : Nat) : State :=
  (s.modEng e fun g =>
    { g with mode := if g.inHold then g.mode else .held, mem := { g.mem with scratch := [] } }.sramFill s.salvageSram).reloadPatch e

/-- The signature that the running image carries for a test (R582). -/
def State.signature (s : State) (kind n : Nat) : W64 := Config.signature s.via.fw.image kind n

/-- Whether patch RAM holds what Viari's copy does (R585 step 2). -/
def State.patchSame (s : State) (e : Nat) : Bool :=
  let word (m : AMap (BitVec 152)) : List (BitVec 152) := (List.range 512).map fun i => m.get i 0
  decide (word (s.eng e).rn.patch = word s.via.fw.patch.1)

/-- Whether the slice of an engine finds its patch RAM as Viari's copy is (R585, R586), and whether its MISRs hold the signature
(R582). -/
def State.patchGood (s : State) (e : Nat) (r : SliceResult) : Bool := r.patchOk && s.patchSame e

/-- See patchGood. -/
def State.misrGood (s : State) (e : Nat) (r : SliceResult) : Bool := decide (r.misr = s.signature 1 (slotOf e))

/-- The MISRs read and expected, as a context block (R609). -/
def misrBlock (read expected : W64) : List Byte := ctxBlock 6 (toBytes 8 read.toNat ++ toBytes 8 expected.toNat)

/-- A stopped engine of a vat whose slice waited begins it (R591). -/
def State.nextStopped (s : State) (v : Nat) : State :=
  match (List.range 18).find? fun k => decide ((s.eng (18 * v + k)).mode = .stopped) with
  | some k => s.sliceStopped (18 * v + k)
  | none => s

/-- An engine out of the rotation that passed: standby with 17 or more live engines and none in standby, else executing
(R591). -/
def State.returnSpare (s : State) (v k : Nat) : State :=
  if 17 ≤ (s.vat v).live && (s.vat v).standby.isNone then
    (s.modEng (18 * v + k) fun g => { g with mode := .held, hold := true, drain := false }).toStandby v k
  else s.returnEng (18 * v + k)

/-- A failed comparison maps the engine out, and the vat's roles follow (R586, R583). -/
def State.sliceFails (s : State) (v k reason : Nat) (r : SliceResult) : State :=
  let x := s.signature 1 k
  let s := (s.sliceFailure 1 v k k r.misr x).countSlice v k false
  (s.mapOut (18 * v + k) reason (misrBlock r.misr x)).rebalance v

/-- A patch RAM mismatch found by a slice, treated as a patch parity stop (R417, R586): recorded; the patch is reloaded;
whether it is the second in 1,024 turns. No trigger read the word: EADDR within patch RAM and EPORT are open (log 4). -/
def State.patchMismatch (s : State) (e : Nat) : State × Bool :=
  let again := (s.eng e).rn.lastStop.elim false fun t => decide (s.trn.turn ≤ t + 1024)
  let ea := 0x1000 + Config.freeNat s.fresh % 512
  let ep := Config.freeNat (s.fresh + 1) % 2048
  let s := s.draw.draw.caveCtx 0x0301 (vatOf e) (slotOf e) (stopData 1 2 0 0 0 0 ea ep false) false
    (ctxBlock 2 (toBytes 8 (s.eng e).rnStat.toNat))
  let s := s.event 0x0301 [BitVec.ofNat 8 (vatOf e), BitVec.ofNat 8 (slotOf e), 2]
  ((s.reloadPatch e).modEng e fun g => { g with rn := { g.rn with lastStop := some s.trn.turn } }, again)

/-- Whether an engine of a vat has stopped and its slice is still to come. -/
def State.anyStopped (s : State) (v : Nat) : Bool :=
  (List.range 18).any fun k => decide ((s.eng (18 * v + k)).mode = .stopped)

/-- ENGINE_SLICE_COMPLETE (R585 steps 2 to 4, R586, R591). An engine that passes joins the executing engines where one has stopped
meanwhile; with no stopped engine left to take its place the next slot in rotation then drains into standby (R583). -/
def execEngineSliceComplete (vat : VatId) (res : SliceResult) (s : State) : Answer :=
  let v := vat.val
  let x := s.vat v
  match x.slot with
  | none => .next s
  | some k =>
    let e := 18 * v + k
    let off := x.offrot
    let done (s : State) : State := s.modVat v fun x => { x with slot := none, offrot := false, joins := false }
    if !s.patchGood e res then
      let (s, again) := s.patchMismatch e
      if again then
        .next ((((done s).mapOut e 3).rebalance v).nextStopped v)
      else .next s
    else if !s.misrGood e res then
      .next (((done s).sliceFails v k (if off then 4 else 1) res).nextStopped v)
    else
      let s := ((done s).restoreEng e).countSlice v k true
      let s := if off then s.returnSpare v k
        else
          let s := s.modVat v fun x => { x with stStat := setFld x.stStat 63 59 (x.after k) }
          if (s.vat v).live < 17 || (s.vat v).standby.isSome then s.returnEng e
          else if x.joins then
            let s := s.returnEng e
            if s.anyStopped v then s else s.drainNext v
          else
            ((s.modEng e fun g => { g with mode := .held, hold := true }).modVat v fun x => { x with back := some k }).drainNext v
      .next (s.nextStopped v)

/-! ### Vat-store slices (R587) -/

/-- Whether vat-store and link slices run on a timer (R589). -/
def State.sliceTimer (s : State) : Bool := !s.ticking && (s.dev.mode = 2 || s.dev.mode = 3)

/-- L1 copies of lines that the emptied region displaces are invalidated (R587, R340): which lines it displaces is open (log 35). -/
def State.displace (s : State) (v : Nat) : State :=
  let keep (l : Nat × List Byte) : Bool := !(decide (s.lineHome (64 * l.1) = v) && Config.displaced s.fresh l.1)
  (s.dropCopies keep).draw

/-- VAT_STORE_SLICE (R587, R62): one region takes no new allocation and is emptied; deferred while a slice of either kind runs in
the vat. -/
def execVatStoreSlice (vat : VatId) (s : State) : Answer :=
  let v := vat.val
  let x := s.vat v
  let due := if s.ticking then decide (s.trn.tick = 20480) && decide (s.trn.turn % 1024 = 16 * v + 8) else s.sliceTimer
  if !due || x.inReset then .next s
  else if x.region.isSome || x.slot.isSome then .next (s.modVat v fun x => { x with stStat := satFld x.stStat 39 32 1 })
  else .next ((s.displace v).modVat v fun x => { x with region := some (fld x.stStat 31 26) })

/-- One failing line of a vat store: a spare replaces it, else it is disabled; whether the 65th has come (R587). -/
def State.repairLine (s : State) (v line : Nat) : State × Bool :=
  let st := (s.vat v).stStat
  let spare := fld st 25 20
  let off := fld st 19 13
  let rep (s : State) (kind left : Nat) : State :=
    s.caveRec 0x8004 v 0xFF ([BitVec.ofNat 8 kind] ++ toBytes 2 line ++ [BitVec.ofNat 8 left])
  if spare ≠ 0 then
    (rep (s.modVat v fun x => { x with stStat := setFld x.stStat 25 20 (spare - 1) }) 1 (spare - 1), false)
  else if off < 64 then (rep (s.modVat v fun x => { x with stStat := setFld x.stStat 19 13 (off + 1) }) 2 0, false)
  else (s, true)

/-- A Slice Failure record that is a cause of Safe Hold (R608), with the MISRs read and expected. -/
def State.testCause (s : State) (kind n unit : Nat) (read : W64) : State :=
  let x := s.signature kind n
  s.cause 0x8003 unit 0xFF ([BitVec.ofNat 8 kind, BitVec.ofNat 8 n] ++ toBytes 8 read.toNat ++ toBytes 8 x.toNat) (misrBlock read x)

/-- Failing lines of a region of a vat store repaired; beyond repair the device enters Safe Hold (R581, R587). -/
def State.repairLines (v region : Nat) (read : W64) : List Nat → State → State × Bool
  | [], s => (s, false)
  | l :: rest, s => match s.repairLine v l with
    | (s, false) => State.repairLines v region read rest s
    | (s, true) => (s.testCause 2 region v read, true)

/-- What a test of a region or link found to fail: nothing where its MISRs hold the signature (R582). -/
def State.failing (s : State) (kind n : Nat) (r : TestResult) : List Nat :=
  if r.misr = s.signature kind n then [] else r.fails

/-- VAT_STORE_SLICE_COMPLETE (R582, R587): failing lines are repaired, and the region returns to service. -/
def execVatStoreSliceComplete (vat : VatId) (res : TestResult) (s : State) : Answer :=
  let v := vat.val
  match (s.vat v).region with
  | none => .next s
  | some r =>
    if decide (2 ≤ s.dev.mode) && decide (s.dev.mode ≤ 8) then
      match State.repairLines v r res.misr (s.failing 2 r res) s with
      | (s, true) => .next s
      | (s, false) =>
        .next (s.modVat v fun x =>
          { x with
            region := none
            stStat := setFld x.stStat 31 26 ((r + 1) % 64)
            stCount := if res.misr = s.signature 2 r then satFld x.stCount 15 0 1 else x.stCount })
    else .next s

/-! ### Links (R588) -/

/-- The vat whose ST_LINK covers a link, and whether it is its east link (R588, R595). -/
def linkVat (k : Nat) : Nat × Bool :=
  if k < 56 then (8 * (k / 7) + k % 7, true) else (8 * ((k - 56) % 7) + (k - 56) / 7, false)

/-- A link's slice is due (R588, R589): at its tick, on the timer, or brought forward by sixteen CRC errors. -/
def State.linkDue (s : State) (k : Nat) : Bool :=
  decide (16 ≤ (s.dev.linkCrc.get k (0, 0)).2) || s.sliceTimer ||
    (s.ticking && decide (s.trn.tick = 36864) && decide (s.trn.turn % 128 = k))

/-- LINK_SLICE (R588): the routers hold the link's traffic and drive PRBS31. A slice that errors brought forward starts their count
again. -/
def execLinkSlice (link : Fin 112) (s : State) : Answer :=
  let k := link.val
  if !(s.ticking || s.sliceTimer) || !s.linkDue k || s.dev.linkBusy.contains k then .next s
  else
    let forced := decide (16 ≤ (s.dev.linkCrc.get k (0, 0)).2)
    .next (s.modDev fun d =>
      { d with linkBusy := k :: d.linkBusy, linkCrc := if forced then d.linkCrc.put k (s.trn.turn, 0) else d.linkCrc })

/-- Failing wires of one direction of a link replaced by spares; beyond them the device enters Safe Hold (R588). -/
def State.repairWires (k : Nat) (fwd : Bool) (read : W64) : List Nat → State → State × Bool
  | [], s => (s, false)
  | w :: rest, s =>
    let p := s.dev.links.get k (8, 8)
    let left := if fwd then p.1 else p.2
    if left = 0 then (s.testCause 3 k 0xFF read, true)
    else
      let p' := if fwd then (p.1 - 1, p.2) else (p.1, p.2 - 1)
      let s := s.modDev fun d => { d with links := d.links.put k p' }
      let (v, east) := linkVat k
      let s := s.modVat v fun x =>
        { x with stLink := if east then setFld x.stLink 31 28 (min p'.1 p'.2) else setFld x.stLink 27 24 (min p'.1 p'.2) }
      let s := s.caveRec 0x8004 0xFF 0xFF ([3] ++ toBytes 2 w ++ [BitVec.ofNat 8 (left - 1)])
      State.repairWires k fwd read rest s

/-- The failing wires of both directions of a link (R581, R582, R588). -/
def State.repairLink (s : State) (k : Nat) (fwd bwd : TestResult) : State × Bool :=
  match State.repairWires k true fwd.misr (s.failing 3 k fwd) s with
  | (s, true) => (s, true)
  | (s, false) => State.repairWires k false bwd.misr (s.failing 3 k bwd) s

/-- LINK_SLICE_COMPLETE (R588): the link is compared, failing wires are replaced, traffic resumes. -/
def execLinkSliceComplete (link : Fin 112) (fwd bwd : TestResult) (s : State) : Answer :=
  let k := link.val
  if !s.dev.linkBusy.contains k then .next s
  else .next ((s.modDev fun d => { d with linkBusy := d.linkBusy.filter fun i => i ≠ k }).repairLink k fwd bwd).1

/-- LINK_CRC_ERROR (R588): a message is repeated, and the error counted. -/
def execLinkCrcError (link : Fin 112) (s : State) : Answer :=
  let k := link.val
  if s.dev.mode = 0 then .next s
  else
    let (v, east) := linkVat k
    let c := s.dev.linkCrc.get k (0, 0)
    let n := if c.1 = s.trn.turn then c.2 + 1 else 1
    let s := s.modVat v fun x => { x with stLink := if east then satFld x.stLink 63 48 1 else satFld x.stLink 47 32 1 }
    .next (s.modDev fun d => { d with linkCrc := d.linkCrc.put k (s.trn.turn, n) })

/-! ### ENGINE_MAP, SRAM_READ and SLICE_NOW (R467, R594) -/

/-- ENGINE_MAP with ACTION 1 (R592, R594): an executing engine drains first. -/
def State.mapNow (s : State) (c e : Nat) : State :=
  match (s.eng e).mode with
  | .mapped => s.complete c stDone s.liveResult
  | .running =>
    (s.modEng e fun g => { g with drain := true, drained := false }).started c
  | _ =>
    let v := vatOf e
    let s := s.modVat v fun x => if x.slot = some (slotOf e) then { x with slot := none, offrot := false } else x
    let s := s.modVat v fun x => if x.back = some (slotOf e) then { x with back := none } else x
    let s := (s.mapOut e 5).rebalance v
    s.complete c stDone s.liveResult

/-- ENGINE_MAP with ACTION 2 (R594): a slice on a mapped-out engine, which returns it when it passes. -/
def State.mapBack (s : State) (c e : Nat) (res : SliceResult) : State :=
  let v := vatOf e
  let k := slotOf e
  if !s.patchGood e res && (s.patchMismatch e).2 = false then ((s.patchMismatch e).1).started c
  else if !s.patchGood e res || !s.misrGood e res then
    ((s.sliceFailure 1 v k k res.misr (s.signature 1 k)).countSlice v k false).complete c stState []
  else
    let s := (s.restoreEng e).countSlice v k true
    let s := s.modVat v fun x => { x with lmask := x.lmask ||| BitVec.ofNat 18 (2 ^ k) }
    let s := s.modDev fun d => { d with mapped := d.mapped.filter fun i => i ≠ e }
    let s := s.returnSpare v k
    s.complete c stDone s.liveResult

/-- ENGINE_MAP (R467, R594). -/
def execEngineMap (k : Fin 16) (res : SliceResult) (s : State) : Answer :=
  s.cmd k 0x0802 fun r =>
    let e := 18 * r.cmd.b 8 + r.cmd.b 9
    if !(s.vat (r.cmd.b 8)).gmask.getLsbD (r.cmd.b 9) then s.complete k.val stState []
    else if r.cmd.b 10 = 2 then
      if (s.eng e).mode = .mapped then s.mapBack k.val e res else s.complete k.val stState []
    else s.mapNow k.val e

/-- SRAM_READ (R467, R511): the 16 KiB of a held engine's local SRAM, read through SRAM_ADDR and SRAM_DATA from word 0 on, after
which WORD is 0 again (R510). -/
def execSramRead (k : Fin 16) (out : DmaOut) (s : State) : Answer :=
  s.cmd k 0x0803 fun r =>
    let g := s.eng (18 * r.cmd.b 8 + r.cmd.b 9)
    if !g.inHold then s.complete k.val stState []
    else
      let s := s.modEng (18 * r.cmd.b 8 + r.cmd.b 9) fun g => { g with sramAddr := 0 }
      let x := s.output r 16 (readBytes g.mem.sram 0 16384) out
      match x.2 with
      | none => x.1.complete k.val stDone []
      | some _ => x.1.complete k.val stDmaWrite []

/-- SLICE_NOW (R467): a slice on a held engine, its verdict returned. A failing engine is recorded and stays held; MBIST
leaves its SRAM open (log 4). -/
def execSliceNow (k : Fin 16) (res : SliceResult) (s : State) : Answer :=
  s.cmd k 0x0804 fun r =>
    let v := r.cmd.b 8
    let j := r.cmd.b 9
    let e := 18 * v + j
    if !(s.eng e).inHold then s.complete k.val stState []
    else if s.patchGood e res && s.misrGood e res then
      ((s.restoreEng e).countSlice v j true).complete k.val stDone [0]
    else
      let s := (s.sliceFailure 1 v j j res.misr (s.signature 1 j)).countSlice v j false
      let open_ := (List.range 16384).map fun i => BitVec.ofNat 8 (Config.freeNat (s.fresh + i))
      let s := { s with fresh := s.fresh + 16384 }
      (s.modEng e fun g => { g with mem := { g.mem with sram := writeBytes [] 0 open_ } }).complete k.val stDone [1]

end Sys2Proof.Machine
end

