-- ==== Sys2Proof/Machine/Vault.lean ====
section
/-! DEFINITION. The Key Vault: lane keys, owner, journal MAC key, attestation and Test-Open permission (R464, R468, R469,
R489, R596 to R601); the cave log's commands (R467, R607, R609). -/

namespace Sys2Proof.Machine

/-! ### Keys (R596, R598) -/

/-- Bytes drawn from the vault's DRBG (R598, log 5). -/
def State.random (s : State) (n : Nat) : State × List Byte :=
  (s.modVia fun v => { v with vault := { v.vault with draws := v.vault.draws + 1 } },
    slice (Config.random s.via.vault.draws n) 0 n)

/-- The state with the vault changed. -/
def State.modVault (s : State) (f : Vault → Vault) : State := s.modVia fun v => { v with vault := f v.vault }

/-- What a wrapped value holds, under the key and the additional data it was wrapped under; under others its tag fails (R597, log 6).
-/
def Sealed.unwrap (w : Sealed) (key name : List Byte) : Option (List Byte) :=
  if w.under = key && w.name = name then some w.plain else none

/-- The names of the vault store's entries: 0 KO, 1 LKR (R596, R597). -/
def vaultName (i : Nat) : List Byte := if i = 0 then ascii "KO" else ascii "LKR"

/-- An entry of the vault store written, wrapped under KP (R597). -/
def Vault.putEntry (v : Vault) (i : Nat) (plain : List Byte) : Vault :=
  { v with store := v.kp.elim v.store fun kp => v.store.put i ⟨kp, vaultName i, plain⟩ }

/-- An entry of the vault store as it unwraps; bad: its bytes no longer carry their tag (R597). -/
def Vault.entry (v : Vault) (i : Nat) (bad : Bool) : Option (List Byte) :=
  if bad then none else v.kp.bind fun kp => (v.store.find i).bind fun w => w.unwrap kp (vaultName i)

/-- KT, the lane transport key (R596): none without a device identity or an owner. -/
def Vault.kt (v : Vault) : Option (List Byte) :=
  v.kid.bind fun kid => v.ko.map fun ko => hmac256 (Config.sharedX kid ko) (ascii "QT9 lane transport")

/-- A Vault record (R608). -/
def State.vaultRec (s : State) (n : Nat) : State := s.caveRec 0x8009 0xFF 0xFF [BitVec.ofNat 8 n]

/-! ### LANE_KEYS (R464, R489) -/

/-- The key that a LANE_KEYS entry unwraps to. -/
def unwrapKey (kt e : List Byte) (lane : Nat) : Option (List Byte) :=
  Config.gcmOpen kt (slice e 0 12) (toBytes 3 lane) (slice e 12 32) (slice e 44 16)

/-- A lane key put in the lane key table, wrapped under the root LKR, and on the key bus, in force from the next tick 0, and KEYV set
(R463, R489, R598). -/
def State.putKey (s : State) (l : Nat) (key : List Byte) : State :=
  let s := s.setLane l fun x => { x with keyv := true }
  s.modItk fun i =>
    { i with
      keysOld := match i.keysOld.find l with
        | some _ => i.keysOld
        | none => i.keysOld.put l (i.keys.find l)
      keyTab := s.via.vault.lkr.elim i.keyTab fun lkr => i.keyTab.put l ⟨lkr, toBytes 3 l, key⟩
      keys := i.keys.put l key }

/-- LANE_KEYS (R464, R600): every entry unwraps, or none is installed. -/
def execLaneKeys (k : Fin 16) (buf : DmaIn) (s : State) : Answer :=
  s.cmd k 0x0602 fun r =>
    let n := r.cmd.n 12 4
    let first := r.cmd.n 8 3
    let e (d : List Byte) (i : Nat) : List Byte := slice d (64 * i) 64
    match buf.map fun d => r.cmd.input 16 d, s.via.vault.kt with
    | some d, some kt =>
      if (List.range n).any fun i => decide (numAt (e d i) 60 4 ≠ 0) then s.complete k.val stMalformed []
      else
        let keys := (List.range n).map fun i => unwrapKey kt (e d i) (first + i)
        if keys.all Option.isSome then
          ((List.range n).foldl (fun s i => s.putKey (first + i) ((keys.getD i none).getD [])) s).complete k.val stDone
            (toBytes 4 n)
        else (s.vaultRec 6).complete k.val stAuth []
    | some d, none =>
      if (List.range n).any fun i => decide (numAt (e d i) 60 4 ≠ 0) then s.complete k.val stMalformed []
      else s.complete k.val stState []
    | none, none => s.complete k.val stState []
    | none, some _ => s.complete k.val stDmaRead []

/-! ### Attestation (R468, R598, R601) -/

/-- The latest journal MAC key and its effective turn (R601). -/
def State.lastKj (s : State) : Nat × List Byte := s.via.jrn.keys.getLast?.getD (0, s.via.vault.kj)

/-- Bytes 0 to 179 of an ATTEST report. -/
def State.attestHead (s : State) (nonce : List Byte) : List Byte :=
  toBytes 2 1 ++ toBytes 2 512 ++ [BitVec.ofNat 8 s.dev.mode, 0, 0, 0] ++ toBytes 8 (s.feat 0 0).toNat ++
    toBytes 4 ((s.setFor s.trn.turn).elim 0 CfgSet.ver) ++ toBytes 4 s.fwVersion ++ toBytes 6 (s.prs.relBatch.getD 0) ++
    [0, 0] ++ slice nonce 0 32 ++ sha384 s.via.fw.image ++ s.prs.relHash ++ toBytes 4 s.cave.cold ++
    toBytes 4 s.cave.warm ++ toBytes 4 s.via.jrn.rolls ++ toBytes 6 s.lastKj.1 ++ [0, 0]

/-- The journal key fields of a report: zeros without an owner (R600, R601). -/
def State.attestKey (s : State) (iv head : List Byte) : List Byte :=
  match s.via.vault.kt with
  | none => List.replicate 60 0
  | some kt =>
    let c := Config.gcmSeal kt iv (slice head 160 18) s.lastKj.2
    iv ++ slice c.1 0 32 ++ slice c.2 0 16

/-- ATTEST (R601). -/
def execAttest (k : Fin 16) (out : DmaOut) (s : State) : Answer :=
  s.cmd k 0x0900 fun r =>
    match s.via.vault.kid with
    | none => s.complete k.val stState []
    | some kid =>
      let (s, iv) := s.random 12
      let head := s.attestHead (slice r.cmd.bytes 8 32)
      let owner := s.via.vault.ko.elim (List.replicate 48 0) sha384
      let body := head ++ s.attestKey iv head ++ owner ++ List.replicate 128 0
      let x := s.output r 40 (body ++ slice (Config.ecdsaSign kid body) 0 96) out
      match x.2 with
      | none => x.1.complete k.val stDone (toBytes 4 512)
      | some m => x.1.complete k.val stDmaWrite (toBytes 4 m)

/-- ID_CERT (R598): the device identity certificate, as much of it as BUF holds. -/
def execIdCert (k : Fin 16) (out : DmaOut) (s : State) : Answer :=
  s.cmd k 0x0901 fun r =>
    match s.via.vault.kid with
    | none => s.complete k.val stState []
    | some kid =>
      let cert := (Config.idCert kid).take 2048
      let x := s.output r 8 (cert.take (r.cmd.bufLen 8)) out
      match x.2 with
      | none => x.1.complete k.val stDone (toBytes 4 cert.length)
      | some m => x.1.complete k.val stDmaWrite (toBytes 4 m)

/-! ### Owner and journal key (R468, R600) -/

/-- OWNER_SET (R600): a new owner, a new lane key table root, both wrapped into the vault store (R597), KEYV cleared in every lane
entry. While VDD_AON is low the vault is in reset (R630): STATE. -/
def execOwnerSet (k : Fin 16) (buf : DmaIn) (s : State) : Answer :=
  s.cmd k 0x0902 fun r =>
    if !s.dev.aon then s.complete k.val stState [] else
    match buf with
    | none => s.complete k.val stDmaRead []
    | some d =>
      let d := r.cmd.input 8 d
      let key := slice d 0 97
      if s.via.vault.ko.elim true fun ko => Config.ecdsaVerify ko key (slice d 97 96) then
        let (s, lkr) := s.random 32
        let s := s.modVault fun v => ({ v with ko := some key, lkr := some lkr }.putEntry 0 key).putEntry 1 lkr
        let off (l : AMap Lane) : AMap Lane := l.map fun p => (p.1, { p.2 with keyv := false })
        let s := s.modItk fun i =>
          { i with
            lanes := off i.lanes, lanesOld := off i.lanesOld, lanesPrev := off i.lanesPrev
            keys := [], keysOld := [], keysPrev := [] }
        (s.vaultRec 1).complete k.val stDone []
      else (s.vaultRec 4).complete k.val stAuth []

/-- JMAC_ROLL (R468, R502, R635): a new journal MAC key for records of turn E onward. -/
def execJmacRoll (k : Fin 16) (s : State) : Answer :=
  s.cmd k 0x0903 fun r =>
    let e := r.cmd.n 8 6
    let pending := s.via.jrn.keys.filter fun p => decide (s.trn.turn < p.1)
    if r.started then s.afterRecord k.val []
    else if s.effRange.2 < e then s.complete k.val stRange []
    else if !s.dev.aon then s.complete k.val stState []
    else if 2 ≤ pending.length then s.complete k.val stState []
    else if e < s.effRange.1 || pending.any fun p => decide (e ≤ p.1) then s.complete k.val stTurn []
    else
      let (s, key) := s.random 32
      let s := s.modVia fun v => { v with jrn := { v.jrn with keys := v.jrn.keys ++ [(e, key)], rolls := v.jrn.rolls + 1 } }
      let s := s.vaultRec 2
      let s := s.jrnAppend (k.val + 1) (s.jrnRec 0x0005 s.trn.turn (toBytes 6 e ++ toBytes 4 s.via.jrn.rolls))
      s.afterRecord k.val []

/-! ### Test-Open permission (R469) -/

/-- TESTOPEN_CHAL (R469, R600). -/
def execTestopenChal (k : Fin 16) (s : State) : Answer :=
  s.cmd k 0x0904 fun _ =>
    if s.via.vault.ko.isNone || !s.dev.aon then s.complete k.val stState []
    else
      let (s, c) := s.random 48
      (s.modVault fun v => { v with chal := some c }).complete k.val stDone c

/-- TESTOPEN_AUTH (R469, R600): the owner's signature over the latest challenge permits one MODE_SET to Test-Open. -/
def execTestopenAuth (k : Fin 16) (buf : DmaIn) (s : State) : Answer :=
  s.cmd k 0x0905 fun r =>
    match s.via.vault.ko.filter fun _ => s.dev.aon, buf with
    | none, _ => s.complete k.val stState []
    | some _, none => s.complete k.val stDmaRead []
    | some ko, some d =>
      if s.via.vault.chal.elim false fun c => Config.ecdsaVerify ko c (slice (r.cmd.input 8 d) 0 96) then
        ((s.modVault fun v => { v with permit := true }).vaultRec 3).complete k.val stDone []
      else (s.vaultRec 4).complete k.val stAuth []

/-- TESTOPEN_PERMISSION_EXPIRY (R469): 60 s after it was given, a challenge, or a permission, is no longer valid. -/
def execTestopenPermissionExpiry (permission : Bool) (s : State) : Answer :=
  .next (s.modVault fun v => if permission then { v with permit := false } else { v with chal := none })

/-! ### Reading the cave log (R467, R605, R609) -/

/-- A slot of the record ring; one never written is 64 zero bytes (R605). -/
def Cave.slotBytes (c : Cave) (i : Nat) : List Byte := slice (c.ring.get (i % 16384) []) 0 64

/-- CAVE_READ (R467). -/
def execCaveRead (k : Fin 16) (out : DmaOut) (s : State) : Answer :=
  s.cmd k 0x0800 fun r =>
    let n := r.cmd.n 10 2
    let d := ((List.range n).map fun i => s.cave.slotBytes (r.cmd.n 8 2 + i)).flatten
    let x := s.output r 16 d out
    let res (m : Nat) : List Byte := toBytes 2 (s.cave.rseq % 16384) ++ [0, 0] ++ toBytes 4 m
    match x.2 with
    | none => x.1.complete k.val stDone (res n)
    | some m => x.1.complete k.val stDmaWrite (res (m / 64))

/-- CAVE_FIRST (R467, R609): the current area, and the previous one when BUF has room. -/
def execCaveFirst (k : Fin 16) (out : DmaOut) (s : State) : Answer :=
  s.cmd k 0x0801 fun r =>
    let d := readBytes s.cave.cur 0 4096 ++ if 8192 ≤ r.cmd.bufLen 16 then readBytes s.cave.prev 0 4096 else []
    let x := s.output r 16 d out
    let res : List Byte := [if s.cave.capv then 1 else 0]
    match x.2 with
    | none => x.1.complete k.val stDone res
    | some _ => x.1.complete k.val stDmaWrite res

/-- CAVE_SUPPRESSED (R607): at the end of a second one Suppressed record for each TYPE that was limited. -/
def execCaveSuppressed (s : State) : Answer :=
  let lost := s.cave.lost
  let s := lost.foldl (fun s p => s.caveRec 0x80FF 0xFF 0xFF (toBytes 2 p.1 ++ toBytes 4 p.2)) s
  .next (s.caveOn fun c => { c with per := [], lost := [] })

end Sys2Proof.Machine
end

