-- ==== Sys2Proof/Machine/Firmware.lean ====
section
/-! DEFINITION. Firmware: images and their verification, the boot record, and the commands FW_STAGE, FW_VERIFY, FW_SELECT
and FW_INFO (R413, R414, R453, R454, R575 to R579). -/

namespace Sys2Proof.Machine

/-! ### The Rennet patch section (R405, R406, R413, R414) -/

/-- Whether a microword has good parity in its eight groups, no 1 in a reserved bit, no reserved SEQ and no reserved MEMOP
(R405 to R407). -/
def wordOk (w : Nat) : Bool :=
  parityGood w && decide (seqOf w < 8) && decide (memopOf w < 7) && decide (w / 2 ^ 32 % 64 = 0)

/-- Whether a patch section is accepted (R414) for a mask ROM version. -/
def patchSectionOk (urom : Nat) (sec : List Byte) : Bool :=
  let nw := numAt sec 4 2
  let nm := numAt sec 6 1
  let entry (i : Nat) : Nat × Nat := (numAt sec (16 + 4 * i) 2, numAt sec (18 + 4 * i) 2)
  let l := (List.range nm).map entry
  decide (1 ≤ numAt sec 0 2) && decide (numAt sec 2 2 = urom) && decide (1 ≤ nw) && decide (nw ≤ 512) &&
    decide (nm ≤ 32) && decide (numAt sec 7 9 = 0) && decide (16 + 4 * nm + 19 * nw ≤ sec.length) &&
    (l.all fun e => decide (e.1 < 4096) && decide (e.2 < nw)) && decide ((l.map Prod.fst).Nodup) &&
    (List.range nw).all fun i => wordOk (numAt sec (16 + 4 * nm + 19 * i) 19)

/-- The patch section of an image. -/
def imagePatch (image : List Byte) : Option (List Byte) :=
  (Config.patchSection image).map fun p => slice image p.1 p.2

/-- Whether an image's patch section, when present, meets R414. -/
def imagePatchOk (urom : Nat) (image : List Byte) : Bool := (imagePatch image).elim true (patchSectionOk urom)

/-! ### Images (R576) -/

/-- LENGTH of the image that begins at the first byte of a bank. -/
def imageLen (b : List Byte) : Nat := numAt b 4 4

/-- The bytes of the image in a bank. -/
def imageOf (b : List Byte) : List Byte := slice b 0 (min (imageLen b) (2 ^ 25))

/-- Whether the image in a bank passes verification (R576). -/
def imageOk (urom : Nat) (b : List Byte) : Bool :=
  let n := imageLen b
  decide (4096 ≤ n) && decide (n ≤ 2 ^ 25) && decide (n % 4096 = 0) && decide (numAt b 8 8 = 0) &&
    decide (numAt b 161 95 = 0) && decide (numAt b 352 160 = 0) &&
    decide (sha384 (slice b 64 97) = Config.fvr) &&
    Config.ecdsaVerify (slice b 64 97) (slice b 0 256) (slice b 256 96) &&
    decide (sha384 (slice b 512 (n - 512)) = slice b 16 48) && imagePatchOk urom (imageOf b)

/-- The contents of a bank of the boot flash. -/
def Firmware.bank (w : Firmware) (b : Nat) : List Byte := w.banks.get b []

/-- The state with the firmware block changed. -/
def State.modFw (s : State) (f : Firmware → Firmware) : State := s.modVia fun v => { v with fw := f v.fw }

/-- The 64 bytes of the boot record (R575). -/
def Firmware.recBytes (w : Firmware) : List Byte :=
  withCrc (toBytes 8 w.recSeq ++ [BitVec.ofNat 8 w.sel, if w.once then 1 else 0, BitVec.ofNat 8 w.prev,
    BitVec.ofNat 8 w.valid.toNat] ++ List.replicate 48 0)

/-- The copy of the boot record that is not current written with the record's fields and the next SEQ, which makes it current
(R575). Successive writes take the two copies in turn. -/
def Firmware.recorded (w : Firmware) : Firmware :=
  let w := { w with recSeq := w.recSeq + 1, recOk := true }
  { w with copies := w.copies.put (w.recSeq % 2) w.recBytes }

/-- The boot record as the boot ROM finds it: the copy with valid CRC and the higher SEQ (R575, R577). -/
def Firmware.readRecord (w : Firmware) : Firmware :=
  let good := ([0, 1].map fun i => w.copies.get i []).filter fun r => decide (r.length = 64) && crcOk r
  match good.foldl (fun (a : Option (List Byte)) r =>
      if a.elim true (fun x => decide (numAt x 0 8 < numAt r 0 8)) then some r else a) none with
  | none => { w with recOk := false }
  | some r => { w with
    recOk := true, recSeq := numAt r 0 8, sel := numAt r 8 1, once := decide (numAt r 9 1 = 1), prev := numAt r 10 1
    valid := BitVec.ofNat 2 (numAt r 11 1) }

/-- VALID of a bank. -/
def Firmware.validBit (w : Firmware) (b : Nat) (v : Bool) : Firmware :=
  { w with valid := if v then w.valid ||| BitVec.ofNat 2 (2 ^ b) else w.valid &&& ~~~ BitVec.ofNat 2 (2 ^ b) }

/-- Whether the host load path is open and no image runs yet (R579). -/
def State.romOnly (s : State) : Bool := s.via.fw.hostLoad && !s.via.fw.started

/-- The bank FW_STAGE and FW_VERIFY act on: the one that is not running; with a host-loaded image the one that is not
selected (log 23). -/
def Firmware.stageBank (w : Firmware) : Nat := 1 - (w.running.getD w.sel) % 2

/-! ### The rows -/

/-- FW_STAGE (R453, R579): the bytes go into the bank that is not running, which is invalid from then on; on the host load
path into the staging area of HBM3. After a failed flash write how many bytes were written is open (log 4). -/
def execFwStage (k : Fin 16) (buf : DmaIn) (flash : Bool) (s : State) : Answer :=
  s.cmd k 0x0100 fun r =>
    match buf with
    | none => s.complete k.val stDmaRead []
    | some d =>
      let n := r.cmd.bufLen 12
      let off := r.cmd.n 8 4
      let d := r.cmd.input 12 d
      if s.romOnly then (s.wr off d).complete k.val stDone (toBytes 4 n)
      else
        let done := if flash then n else Config.freeNat s.fresh % n
        let put (w : Firmware) : Firmware :=
          let b := w.stageBank
          let w := if w.valid.getLsbD b then (w.validBit b false).recorded else w
          { w with banks := w.banks.put b (putAt (w.bank b) off (d.take done)) }
        let s := s.modFw put
        if flash then s.complete k.val stDone (toBytes 4 n) else s.draw.complete k.val stMedia (toBytes 4 done)

/-- FW_VERIFY (R453, R576, R579): the staged image is verified and its bank becomes valid; on the host load path the image
starts. When the flash write that marks the bank valid fails, it stays invalid. -/
def execFwVerify (k : VerifyOut) (s : State) : Answer :=
  s.cmd k.slot 0x0101 fun _ =>
    let w := s.via.fw
    if s.romOnly then
      let b := s.rdN 0 (min (numAt (s.rdN 0 8) 4 4) (2 ^ 25))
      if imageOk w.urom b then
        (s.modFw fun w => { w with image := imageOf b }).complete k.slot.val stDone (sha384 (imageOf b))
      else s.complete k.slot.val stVerify []
    else
      let b := w.bank w.stageBank
      if !imageOk w.urom b then s.complete k.slot.val stVerify []
      else if !k.flash then s.complete k.slot.val stMedia []
      else (s.modFw fun w => (w.validBit w.stageBank true).recorded).complete k.slot.val stDone (sha384 (imageOf b))

/-- FW_SELECT (R454, R575): the boot record is written with the selection; ONCE keeps the selection it returns to. A failed
flash write leaves the record as it was. -/
def execFwSelect (k : Fin 16) (flash : Bool) (s : State) : Answer :=
  s.cmd k 0x0102 fun r =>
    let b := r.cmd.b 8
    let once := decide (r.cmd.b 9 = 1)
    if !s.via.fw.valid.getLsbD b then s.complete k.val stState []
    else if !flash then s.complete k.val stMedia []
    else
      let s := s.modFw fun w =>
        let prev := if once then (if w.once then w.prev else w.sel) else w.prev
        { w with sel := b, once := once, prev := prev }.recorded
      s.complete k.val stDone []

/-- FW_INFO (R444). The running bank of a host-loaded image is open (log 4). -/
def execFwInfo (k : Fin 16) (s : State) : Answer :=
  s.cmd k 0x0103 fun _ =>
    let w := s.via.fw
    let run := w.running.getD (Config.freeNat s.fresh)
    let s := if w.running.isNone then s.draw else s
    s.complete k.val stDone
      ([BitVec.ofNat 8 run, BitVec.ofNat 8 w.sel, if w.once then 1 else 0, BitVec.ofNat 8 w.valid.toNat] ++
        toBytes 4 (numAt (w.bank 0) 0 4) ++ toBytes 4 (numAt (w.bank 1) 0 4) ++ toBytes 2 w.upatch)

end Sys2Proof.Machine
end

