-- ==== Sys2Proof/Machine/Reset.lean ====
section
/-! DEFINITION. Modes, reset and boot: mode changes by command, Drain, cold, warm and vat reset, boot and Prime, recovery
of the ledger, Test-Open (R64, R450, R451, R521, R527, R530, R533, R558 to R580, R581, R602, R609, R628 to R630). -/

namespace Sys2Proof.Machine

/-! ### Setting RUN (R45, R64, R450, R502, R562) -/

/-- Entry to Service, Strict Service, Degraded Service or Replay: RUN and the START record (R450, R502). -/
def State.enterRun (s : State) (k target first : Nat) : State :=
  ((s.runTurns first).startRecord (k + 1) first).setMode target 0

/-- Entry to Replay (R45, R52, R562): the source is the host's credits, and supplied records are taken afresh. -/
def State.enterReplay (s : State) (k first : Nat) : State :=
  let s := s.modTrn fun t => { t with saved := some t.src, ctl := setFld t.ctl 5 4 2 }
  (s.modVia fun v => { v with rpl := {} }).enterRun k 7 first

/-! ### Standby (R560, R561, R583, R584) -/

/-- Whether the conditions of MODE_SET M3 from M2 hold (R560). -/
def State.standbyOk (s : State) : Bool :=
  (List.range 12).all s.mcReady && bit s.via.rgnLdg 0 && s.via.turnSet && s.via.jrnSet && !s.via.sets.isEmpty

/-- Live engines that are not held for slice test leave engine reset (R560, R574, R583). -/
def State.releaseEngines (s : State) : State :=
  allVats.foldl (fun s v =>
    let x := s.vat v
    x.liveSlots.foldl (fun s k =>
      if x.standby = some k || (s.eng (18 * v + k)).mode ≠ .held then s else s.startEng (18 * v + k)) s) s

/-- Entry to Standby from Control-Only (R558, R560). -/
def State.enterStandby (s : State) : State :=
  let s := s.setMode 3 0
  ((s.modItk fun i => { i with stopped := false }).modPwr fun p => { p with low := false }).releaseEngines

/-- The MODE_SET commands that wait for Standby complete (R559, R450). -/
def State.completeStandby (s : State) : State :=
  (s.via.runs.filter fun r => r.2.cmd.code = 0x0002 && r.2.started).foldl (fun s r => s.complete r.1 stDone [3, 6]) s

/-- DRAIN_COMPLETE (R561): once every batch admitted before Drain is released, RUN is cleared and Standby entered. With
turns not yet begun no batch was admitted. -/
def execDrainComplete (s : State) : Answer :=
  let released := s.prs.relBatch.elim false fun n => decide (s.dev.drainTo ≤ n)
  if s.dev.mode ≠ 6 || (s.ticking && !released) then .next s
  else
    let s := s.stopTurns.modPrs fun p => { p with status := setBit p.status 0 false, batches := [] }
    let s := (s.modDev fun d => { d with fromReplay := false }).setMode 3 1
    .next s.completeStandby

/-! ### Test-Open (R565, R602) -/

/-- The vault's registers without a key: what is left is the vault store, whether derivation is off, and the DRBG's count (R596,
R597). -/
def Vault.cleared (v : Vault) : Vault := { store := v.store, off := v.off, draws := v.draws }

/-- Keys zeroised, with the key-bus copies in the port units and the journal MAC engine, and derivation disabled (R565, R602 step 1).
The lane key table and the vault store stay wrapped in their memories (R603). -/
def State.zeroiseKeys (s : State) : State :=
  let s := s.modVia fun v =>
    { v with vault := { v.vault.cleared with off := true }, jrn := { v.jrn with keys := [] } }
  s.modItk fun i => { i with keys := [], keysOld := [], keysPrev := [] }

/-- Every store buffer written and every array set to zero (R602 step 2, R412). -/
def State.zeroiseArrays (s : State) : State :=
  let s := s.finishRelease
  let s := s.engs.foldl (fun s p =>
    (s.resetEng p.1).modEng p.1 fun g => { g with
      mem := {}, rn := { g.rn with patch := [], pmatch := [] }, hold := true, drain := false
      mode := if g.mode = .running || g.mode = .slice then .held else g.mode }) s
  let s := allVats.foldl (fun s v => s.modVat v fun x => { x with tlb := [], slot := none, offrot := false, back := none }) s
  let s := s.modDev fun d => { d with linkBusy := [] }
  let s := s.modPrs fun p => { p with txs := [], batches := [], wheels := [], moves := [], moving := [] }
  let s := s.modItk fun i =>
    { i with subs := i.subs.map fun x => (x.1, { x.2 with q1 := [], q2 := [], q3 := [] }), stopped := true }
  s.lowVats

/-- Entry to Test-Open (R602). A read-back that is not zero ends in Safe Hold. -/
def State.testOpen (s : State) (k : Nat) (zeroed : Bool) : State :=
  let old := s.dev.mode
  let s := (s.caveRec 0x800A 0xFF 0xFF [0, 0]).zeroiseKeys.zeroiseArrays
  if zeroed then
    ((s.modDev fun d => { d with scanOn := true }).setMode 11 0).complete k stDone [11, BitVec.ofNat 8 old]
  else s.cause 0x800A 0xFF 0xFF [2, 1] []

/-! ### MODE_SET (R449, R450, R559) -/

/-- Whether every vat has at least 16 live engines (R559). -/
def State.fullVats (s : State) : Bool := allVats.all fun v => decide (16 ≤ (s.vat v).live)

/-- Whether the first turn of the mode to come is one that Viari does not refuse (R64). -/
def State.firstFits (s : State) : Bool := decide (s.firstTurn ≤ 2 ^ 48 - 2 ^ 32)

/-- What MODE_SET answers: the mode entered and the one before. -/
def modeResult (target old : Nat) : List Byte := [BitVec.ofNat 8 target, BitVec.ofNat 8 old]

/-- MODE_SET (R450, R559 to R563, R602, R635): a transition that is not listed completes with MODE, one whose condition
fails with STATE. -/
def execModeSet (k : Fin 16) (zeroed : Bool) (s : State) : Answer :=
  s.cmd k 0x0002 fun r =>
    let m := s.dev.mode
    let target := r.cmd.b 8
    let first := r.cmd.n 10 6
    let end_ (s : State) : State := s.complete k.val stDone (modeResult target m)
    let bad (status : Nat) : State := s.complete k.val status []
    if r.started then
      if target = 3 then s else s.afterRecord k.val (modeResult target 3)
    else if m = 2 && target = 3 then (if s.standbyOk then end_ s.enterStandby else bad stState)
    else if m = 6 && target = 3 then s.started k.val
    else if m = 3 && (target = 4 || target = 5) then
      if s.fullVats && s.firstFits then (s.enterRun k.val target s.firstTurn).afterRecord k.val (modeResult target m)
      else bad stState
    else if m = 3 && target = 8 then
      if s.fullVats || !s.firstFits then bad stState else (s.enterRun k.val 8 s.firstTurn).afterRecord k.val (modeResult target m)
    else if m = 3 && target = 7 then
      if 2 ^ 48 - 2 ^ 32 < first then bad stRange else (s.enterReplay k.val first).afterRecord k.val (modeResult target m)
    else if target = 6 && [4, 5, 7, 8].contains m then end_ (s.toDrain 0)
    else if target = 9 && [2, 3, 4, 5, 6, 7, 8, 10].contains m then end_ (s.safeHold none (some k.val))
    else if m = 9 && target = 10 then end_ (s.setMode 10 0)
    else if target = 11 && (m = 3 || m = 10) then
      if s.via.vault.permit then s.testOpen k.val zeroed else bad stState
    else bad stMode

/-! ### What a reset leaves (R580) -/

/-- A vat after a cold, warm or vat reset: fuses, and the map and the Press counters that are given. -/
def bareVat (x : Vat) (tdp pin : Nat) (lmask : BitVec 18) (cnt : AMap W64) (inReset : Bool) : Vat :=
  let d : Vat := {}
  { d with
    gmask := x.gmask, lmask := lmask, cnt := cnt, inReset := inReset
    pwrCtl := setFld d.pwrCtl 63 52 tdp, pwrBound := setFld d.pwrBound 31 16 pin }

/-- The power block after a cold or warm reset (R556, R580). -/
def barePower (tdp pin : Nat) : Power :=
  let d : Power := {}
  { d with ctl := setFld d.ctl 63 52 tdp, bound := setFld d.bound 31 16 pin }

/-- The vats after a cold or warm reset, with the Press counters that are kept. The defaults of the power registers are those
of a part 16 (R2, R556); of a part 18 every vat is written out with its own. -/
def State.bareVats (s : State) (cnt : Vat → AMap W64) : AMap Vat :=
  let bare (x : Vat) : Vat := bareVat x s.tdp s.allclk x.gmask (cnt x) false
  if s.dev.part = 18 then allVats.map fun v => (v, bare (s.vat v)) else s.vats.map fun p => (p.1, bare p.2)

/-- Everything outside the VDD_AON domain at its value after a cold reset (R580): what stays are the fuses, the boot
flash, the vault store, the cave log, the pins, and the model's own fields. -/
def State.bare (s : State) : State :=
  let d : Device := {}
  { vats := s.bareVats fun _ => []
    host := { perst := s.host.perst }
    via :=
      { fw := { banks := s.via.fw.banks, sel := s.via.fw.sel, once := s.via.fw.once, prev := s.via.fw.prev
                valid := s.via.fw.valid, recOk := s.via.fw.recOk, recSeq := s.via.fw.recSeq
                copies := s.via.fw.copies, urom := s.via.fw.urom }
        vault := s.via.vault.cleared }
    pwr := barePower s.tdp s.allclk
    cave := s.cave
    dev := { d with
      mode := s.dev.mode, prev := s.dev.prev, straps := s.dev.straps, pwrgood := s.dev.pwrgood, resetN := s.dev.resetN
      aon := s.dev.aon, sbUp := s.dev.sbUp, puf := s.dev.puf, part := s.dev.part, turnOut := s.dev.turnOut }
    out := s.out, fresh := s.fresh, pending := s.pending }

/-- A function after a warm reset: its configuration space and MSI-X table stay (R580). -/
def Fn.warm (x : Fn) : Fn := { mask := x.mask, vecs := x.vecs, fmask := x.fmask, msixOn := x.msixOn }

/-- The state after steps 1 to 7 of a warm reset (R580 column Warm): on top of what a cold reset leaves, memory, the
ledger's structures, the lane tables, the counters that only cold reset clears, SLIP_TOTAL and MOVES among them (R113,
R136), the host link and the TAP (R625) stay. R580 does not name the recipe policy table and the throttle's states: they are cleared with
the other Press state (log 25). -/
def State.warmBare (s : State) : State :=
  let b := s.bare
  { b with
    engs := s.engs.map fun (p : Nat × Eng) =>
      (p.1, { rn := { stat := setFld 0 25 18 (fld p.2.rn.stat 25 18) } })
    vats := s.bareVats Vat.cnt
    prs :=
      { stats := s.prs.stats, home := s.prs.home, clog := s.prs.clog, chain := s.prs.chain
        relHash := s.prs.relHash, count := setFld 0 63 32 (fld s.prs.count 63 32)
        plcStatus := setFld 0 63 32 (fld s.prs.plcStatus 63 32) }
    itk := { lanes := s.itk.lanes, lanesOld := s.itk.lanesOld, rewritten := s.itk.rewritten, keyTab := s.itk.keyTab
             keys := s.itk.keys, keysOld := s.itk.keysOld, cnt := s.itk.cnt }
    host :=
      { s.host with fns := s.host.fns.map fun (p : Nat × Fn) => (p.1, Fn.warm p.2) }
    via :=
      { b.via with
        fw := { b.via.fw with failed := s.via.fw.failed }
        vault := { s.via.vault with chal := none, permit := false }
        jrn := { keys := s.via.jrn.keys, rolls := s.via.jrn.rolls, bytes := s.via.jrn.bytes } }
    mem :=
      { s.mem with late := [], mcs := s.mem.mcs.map fun (p : Nat × Mc) =>
        (p.1, { info := setBit p.2.info 0 false, stat := 0, ce := p.2.ce, ue := p.2.ue, failed := p.2.failed }) }
    pwr := { b.pwr with rails := s.pwr.rails }
    dev :=
      { b.dev with
        record := s.dev.record, mapped := s.dev.mapped, links := s.dev.links
        tap := s.dev.tap, tapReg := s.dev.tapReg, boundary := s.dev.boundary } }

/-! ### Boot up to the start of Viari (R575 to R579, R609, R618) -/

/-- The header of the first-failure area (R609). -/
def State.areaHeader (s : State) (kind bank version step : Nat) : Bytes :=
  areaPut s.cave.cur 0 (withCrc (toBytes 2 1 ++ [BitVec.ofNat 8 kind, BitVec.ofNat 8 bank] ++ toBytes 4 version ++
    toBytes 4 s.cave.cold ++ toBytes 4 s.cave.warm ++ [if s.cave.capv then 1 else 0, BitVec.ofNat 8 step] ++
    List.replicate 42 0))

/-- The kind of the boot: cold, warm or host load (R608). -/
def State.kindNow (s : State) : Nat := if s.via.fw.hostLoad then 3 else s.dev.bootKind

/-- The bank of the boot; of a host-loaded image it is open (log 4). -/
def State.bankNow (s : State) : Nat := s.via.fw.running.getD (Config.freeNat s.fresh)

/-- A step of R578 is complete: its Boot Stage record and the area's header (R608, R609, log 24). -/
def State.bootStage (s : State) (step : Nat) : State :=
  let bank := s.bankNow
  let s := if s.via.fw.running.isNone then s.draw else s
  let s := s.caveRec 0x8001 0xFF 0xFF
    ([BitVec.ofNat 8 step, BitVec.ofNat 8 s.kindNow, BitVec.ofNat 8 bank, 0] ++ toBytes 4 s.fwVersion)
  let a := s.areaHeader s.kindNow bank s.fwVersion step
  s.caveOn fun c => { c with cur := a }

/-- A Boot Failure record (R608). -/
def State.bootFailure (s : State) (why unit : Nat) : State :=
  s.caveRec 0x8002 0xFF 0xFF [BitVec.ofNat 8 why, BitVec.ofNat 8 unit]

/-- The boot counts written into the copy of the control block that is not current, with the next sequence count (R605, log 24). -/
def Cave.ctlWrite (c : Cave) (cold warm : Nat) : AMap (Nat × Nat × Nat) :=
  let a := c.ctl.get 0 (0, 0, 0)
  let b := c.ctl.get 1 (0, 0, 0)
  if a.1 ≤ b.1 then c.ctl.put 0 (b.1 + 1, cold, warm) else c.ctl.put 1 (a.1 + 1, cold, warm)

/-- A new first-failure area is opened; the one of the boot before becomes the previous area (R609). -/
def State.openArea (s : State) (kind : Nat) : State :=
  s.caveOn fun c =>
    let cold := if kind = 1 then c.cold + 1 else c.cold
    let warm := if kind = 1 then c.warm else c.warm + 1
    { c with
      cold := cold, warm := warm, ctl := c.ctlWrite cold warm
      prev := c.cur, cur := [], nrec := 0, capv := false, per := [], lost := [] }

/-- The boot ROM takes a bank, or records its failure and clears its VALID bit (R577). -/
def State.tryBank (s : State) (b : Nat) : State × Bool :=
  let w := s.via.fw
  if !w.failed.getLsbD b && imageOk w.urom (w.bank b) then
    (s.modFw fun w => { w with running := some b, image := imageOf (w.bank b) }, true)
  else ((s.bootFailure 1 b).modFw fun w => (w.validBit b false).recorded, false)

/-- The host load path is opened (R577, R579). -/
def State.hostLoad (s : State) : State := s.modFw fun w => { w with hostLoad := true }

/-- A ONCE boot writes ONCE as 0 and SEL as PREV before Viari starts (R577). -/
def Firmware.onceDone (w : Firmware) : Firmware :=
  if w.once then { w with once := false, sel := w.prev }.recorded else w

/-- The boot ROM chooses the image (R577). -/
def State.pickImage (s : State) : State :=
  let s := s.modFw Firmware.readRecord
  if s.dev.straps.getLsbD 0 then s.hostLoad
  else if !s.via.fw.recOk then (s.bootFailure 3 0xFF).hostLoad
  else
    let b := s.via.fw.sel
    let s := s.modFw Firmware.onceDone
    match s.tryBank b with
    | (s, true) => s
    | (s, false) => match s.tryBank (1 - b % 2) with
      | (s, true) => s
      | (s, false) => s.hostLoad

/-- A boot from the boot ROM to the start of Viari (R578 steps 1 to 3). In the boundary-scan hold Prime stops after
step 1 (R618). -/
def State.bootRom (s : State) (kind : Nat) : State :=
  let s := (s.modDev fun d => { d with bootKind := kind }).openArea kind
  if s.dev.bscan then s.bootStage 1
  else ((s.bootStage 1).bootStage 2).pickImage.bootStage 3

/-- The keys that Evopin derives at a cold boot (R596): none while derivation is disabled (R565). -/
def State.deriveKeys (s : State) : State :=
  if s.via.vault.off then s
  else
    let (s, kj) := s.random 32
    s.modVault fun v => { v with kp := s.dev.puf.map Config.pufRoot, kid := s.dev.puf, kj := kj }

/-- One entry of the vault store unwrapped: one whose tag fails is treated as absent, and recorded (R597). -/
def State.openEntry (s : State) (i : Nat) (bad : Bool) : State × Option (List Byte) :=
  let v := s.via.vault
  if v.kp.isNone || (v.store.find i).isNone then (s, none)
  else match v.entry i bad with
    | some x => (s, some x)
    | none => ((s.modVault fun v => { v with store := v.store.drop i }).vaultRec 5, none)

/-- The vault store unwrapped under KP (R596, R597): KO and LKR, the first with a failed tag when koBad, the second when lkrBad. -/
def State.openVault (s : State) (koBad lkrBad : Bool) : State :=
  let (s, ko) := s.openEntry 0 koBad
  let (s, lkr) := s.openEntry 1 lkrBad
  s.modVault fun v => { v with ko := ko, lkr := lkr }

/-- A cold boot begins (R559, R578, R617, R618): M1, the straps, the part's own defaults (R2), the keys, the boot ROM. -/
def State.coldBoot (s : State) (p : PowerOn) : State :=
  let s := s.modDev fun d => { d with straps := p.straps, bscan := p.straps.getLsbD 4, puf := p.puf }
  let s := if s.dev.part = 18 then { s with vats := s.bareVats Vat.cnt, pwr := barePower s.tdp s.allclk } else s
  let s := s.setMode 1 2
  let s := if s.dev.bscan then s else s.deriveKeys
  (s.bootRom 1).openVault p.koBad p.lkrBad

/-! ### PWRGOOD (R567, R628 to R630) -/

/-- The cave log and event of M0 have no writer: only the VDD_AON domain runs in Dormant (R559). The pins that were driven
fall. -/
def State.dormant (s : State) : State :=
  let g := if s.romOnly then (false, false) else gpioOf s.dev.mode
  let s := s.turnOutTo false
  let s := if g.1 then s.emit (.gpio 8 false) else s
  let s := if g.2 then s.emit (.gpio 9 false) else s
  let m := s.dev.mode
  s.bare.modDev fun d => { d with mode := 0, prev := m, pwrgood := false, straps := 0, puf := none }

/-- PWRGOOD_FALL (R567, R580, R597): a low of under 50 ns is ignored, one of 200 ns or more starts a cold reset, and one
between them either. While VDD_AON is low PWRGOOD is ignored, but it stands low (R630). -/
def execPwrgoodFall (ns : Nat) (taken : Bool) (s : State) : Answer :=
  if !s.dev.pwrgood || ns < 50 || (ns < 200 && !taken) then .next s
  else if !s.dev.aon then .next (s.modDev fun d => { d with pgLow := true })
  else .next s.dormant

/-- PWRGOOD_RISE (R565, R566, R578, R628): a cold boot begins; with RESET_N low it waits for its rise. -/
def execPwrgoodRise (p : PowerOn) (s : State) : Answer :=
  if !s.dev.aon then .next (s.modDev fun d => { d with pgLow := false })
  else if s.dev.pwrgood then .next s
  else
    let s := (s.modDev fun d => { d with pwrgood := true }).modVault fun v => { v with off := false }
    if s.dev.resetN then .next (s.coldBoot p) else .next (s.modDev fun d => { d with coldWait := some p })

/-! ### Warm reset (R566, R568) -/

/-- Step 1: how many queued RESULTs a sub-port still sends within 1 ms is open (log 4); the others are lost. -/
def State.lastFrames (s : State) : State :=
  let s := s.itk.subs.foldl (fun s x =>
    let q := x.2.q1
    let n := if x.2.up && s.portsOn then Config.freeNat s.fresh % (q.length + 1) else 0
    let s := (q.take n).foldl (fun s f => s.emit (.frame (x.1 / 4) (x.1 % 4) f.1 f.2)) s.draw
    (q.drop n).foldl (fun s _ => s.count (x.1 / 4) cTxLost) s) s
  s.modItk fun i => { i with subs := i.subs.map fun x => (x.1, { x.2 with q1 := [], q2 := [], q3 := [] }) }

/-- The warm-restart record (R568 step 6). -/
def State.warmRecord (s : State) : WarmRec :=
  { rgnLdg := s.via.rgnLdg, rgnFwh := s.via.rgnFwh, rgnFwd := s.via.rgnFwd, trnCtl := s.trn.ctl, ptp := s.itk.ptp.ctl
    speed := s.itk.speed, subs := s.itk.subs.map fun x => (x.1, { x.2 with up := false })
    jrn := { s.via.jrn with held := [], next := [] }, mapped := s.dev.mapped, rel := s.prs.relBatch.getD 0
    set := s.setFor s.trn.turn }

/-- Steps 1 to 6 of a warm reset (R568). The record is written only by a Viari that runs; in Prime an earlier one that is
not yet used stays (log 25). -/
def State.warmStop (s : State) : State :=
  let s := s.stopTurns.jrnNext.lastFrames
  let s := s.engs.foldl (fun s p => s.sbDrain p.1) s
  let s := allVats.foldl (fun s v => s.markSlice v) s
  if 2 ≤ s.dev.mode && !s.romOnly then s.modDev fun d => { d with record := some s.warmRecord } else s

/-- A warm reset takes effect (R566, R568, R580): carried out as a cold one from Test-Open and when the record fails its
CRC. Prime begins once RESET_N is high. -/
def State.warmReset (s : State) (r : WarmResult) : State :=
  let s := s.warmStop
  let cold := s.dev.mode = 11 || (s.dev.record.isSome && !r.recordOk)
  let s := if cold then s.bare.deriveKeys.openVault false false else s.warmBare.railsBoot
  let s := s.setMode 1 2
  let kind := if cold then 1 else 2
  if s.dev.resetN then s.bootRom kind else s.modDev fun d => { d with warmHeld := true, bootKind := kind }

/-- Whether a warm reset has anything to reset: the device is powered, out of the boundary-scan hold, which only a cold
reset ends (R618), and holds no reset already. -/
def State.warmOpen (s : State) : Bool := decide (s.dev.mode ≠ 0) && !s.dev.bscan && !s.dev.warmHeld

/-- RESET_N_LOW (R566, R568): a low under 1 µs is ignored, one of 10 µs or more starts a warm reset, and one between them
either. -/
def execResetNLow (ns : Nat) (taken : Bool) (r : WarmResult) (s : State) : Answer :=
  if ns < 1000 || (ns < 10000 && !taken) then .next s
  else
    let s := s.modDev fun d => { d with resetN := false }
    if s.warmOpen then .next (s.warmReset r) else .next s

/-- RESET_N_RISE (R568, R628): Prime of a held warm reset begins, or the cold reset that waited. -/
def execResetNRise (s : State) : Answer :=
  let s := s.modDev fun d => { d with resetN := true }
  match s.dev.coldWait with
  | some p => .next ((s.modDev fun d => { d with coldWait := none }).coldBoot p)
  | none =>
    if s.dev.warmHeld then .next ((s.modDev fun d => { d with warmHeld := false }).bootRom s.dev.bootKind) else .next s

/-- COMMANDED_WARM_RESET (R451, R566): the warm reset of a completed RESET KIND 1 takes effect. -/
def execCommandedWarmReset (r : WarmResult) (s : State) : Answer :=
  if s.via.warmWait && s.warmOpen then .next (s.warmReset r) else .next s

/-- BOOT_WATCHDOG_EXPIRY (R577): the bank is recorded and treated as failed, and a warm reset boots the other. -/
def execBootWatchdogExpiry (r : WarmResult) (s : State) : Answer :=
  match s.via.fw.running with
  | some b =>
    if s.dev.mode = 1 && s.warmOpen then
      .next (((s.bootFailure 2 b).modFw fun w => { w with failed := w.failed ||| BitVec.ofNat 2 (2 ^ b) }).warmReset r)
    else .next s
  | none => .next s

/-! ### RESET (R451, R573, R574) -/

/-- An engine after a vat reset (R580): its sub-window registers are reset, but patch RAM, the match registers, RN_STAT.ECNT and
local SRAM stay. -/
def Eng.vatReset (g : Eng) : Eng :=
  { mem := { sram := g.mem.sram }, hold := true, mode := if g.mode = .mapped then .mapped else .held
    rn := { pmatch := g.rn.pmatch, patch := g.rn.patch, stat := setFld 0 25 18 (fld g.rn.stat 25 18), lastStop := g.rn.lastStop } }

/-- A vat reset (R573): its slice writes back, its engines, TLB, slice state, with what it counts of the wheels it homes (R128), and
controller are reset, no copy of a line that it homes (R20) is left in another vat store or L1 cache and none of any line in its
own; in Safe Hold and Recovery the staged lines it homes are dropped. -/
def State.vatReset (s : State) (v : Nat) : State :=
  let s := s.writeBack fun w => w = v
  let s := (List.range 18).foldl (fun s k =>
    (s.resetEng (18 * v + k)).modEng (18 * v + k) Eng.vatReset) s
  let s := (s.modVat v fun x => bareVat x s.tdp s.allclk x.lmask x.cnt true).adjustRow (v / 8)
  let s := s.modMem fun m => { m with
    late := (landFor v (fun _ => true) (landAllFor (fun x => s.lineHome x.pa = v) m.late)).1 }
  let s := s.dropCopies fun l => decide (s.lineHome (64 * l.1) ≠ v)
  let s := s.modPrs fun p => { p with wheels := p.wheels.filter fun w => decide ((s.homeByte w.1).toNat % 64 ≠ v) }
  let here (a : Nat) : Bool := s.homeVat a = v
  if s.dev.mode = 9 || s.dev.mode = 10 then
    s.modPrs fun p => { p with
      batches := p.batches.map fun b => (b.1, { b.2 with staged := b.2.staged.filter fun c => !here c.1 })
      txs := p.txs.map fun t => (t.1, { t.2 with
        reads := t.2.reads.filter fun l => !here (l * 64), writes := t.2.writes.filter fun c => !here c.1 }) }
  else s

/-- An engine reset by command (R451, R574): with HOLD at 0 the engine begins again at the Start slot. -/
def State.engineReset (s : State) (e : Nat) : State :=
  let s := s.resetEng e
  let g := s.eng e
  if g.mode = .running && !g.hold then s.startEng e
  else if g.mode = .running then s.modEng e fun g => { g with mode := .held, drain := false }
  else s

/-- RESET (R451). KIND 2 leaves the vat in reset until the row is given again, when the vat leaves reset and the command
completes. -/
def execReset (k : Fin 16) (s : State) : Answer :=
  s.cmd k 0x0003 fun r =>
    let v := r.cmd.b 9
    if r.cmd.b 8 = 1 then (s.modVia fun x => { x with warmWait := true }).complete k.val stDone []
    else if r.cmd.b 8 = 2 then
      if r.started then (s.modVat v fun x => { x with inReset := false }).complete k.val stDone []
      else (s.vatReset v).started k.val
    else (s.engineReset (18 * v + r.cmd.b 10)).complete k.val stDone []

/-! ### Recovery of the ledger (R570 to R572) -/

/-- Whether a section holds a valid release mark of a batch (R134, R570). -/
def hasMark (l : List (List Byte)) (n : Nat) : Bool :=
  l.any fun r => crcOk r && numAt r 0 2 = 2 && numAt r 4 6 = n

/-- D: the highest batch with a valid release mark in all 64 sections (R570 step 2). -/
def State.lastMarked (s : State) : Option Nat :=
  let marks := ((s.prs.clog.get 0 {}).all.filter fun r => crcOk r && numAt r 0 2 = 2).map fun r => numAt r 4 6
  let full := marks.filter fun n => allVats.all fun v => hasMark (s.prs.clog.get v {}).all n
  full.foldl (fun acc n => some (acc.elim n (max n))) none

/-- The line records of a batch in a section written to their addresses (R570 step 3). -/
def State.redo (s : State) (l : List (List Byte)) (n : Nat) : State :=
  (l.filter fun r => crcOk r && numAt r 0 2 = 1 && numAt r 4 6 = n).foldl (fun s r => s.wr (numAt r 10 6) (slice r 32 64)) s

/-- Recovery in Prime after a warm reset (R570 to R572). -/
def State.recover (s : State) (rel : Nat) : State :=
  let d := s.lastMarked.getD rel
  let s := match s.lastMarked with
    | none => s
    | some n => allVats.foldl (fun s v => s.redo (s.prs.clog.get v {}).all n) s
  let s := s.modPrs fun p => { p with clog := [], relBatch := some d }
  let s := s.modTrn fun t => { t with turn := d + 1, first := true }
  let win (l : AMap Lane) : AMap Lane := l.map fun x =>
    (x.1, if x.2.valid && decide (d < x.2.lastTurn) then { x.2 with win := 0 } else x.2)
  let s := s.modItk fun i => { i with lanes := win i.lanes, lanesOld := win i.lanesOld }
  s.modVia fun v => { v with warmD := some d }

/-- What the warm-restart record restores (R571, R580). -/
def State.restore (s : State) (r : WarmRec) : State :=
  let s := s.modVia fun v =>
    { v with
      rgnLdg := r.rgnLdg, rgnFwh := r.rgnFwh, rgnFwd := r.rgnFwd, jrn := r.jrn
      sets := r.set.elim [] fun c => [c], floor := r.set.map CfgSet.ver, nextVer := r.set.elim 1 fun c => c.ver + 1 }
  let s := s.modTrn fun t => { t with ctl := r.trnCtl }
  let s := s.modItk fun i => { i with ptp := { i.ptp with ctl := r.ptp }, speed := r.speed, subs := r.subs }
  s.modDev fun d => { d with record := none }

/-! ### Prime (R521, R527, R530, R533, R578, R579, R581) -/

/-- Whether a DIMM kind is one of R520. -/
def dimmOk (d : Nat × Nat × Nat) : Bool :=
  [16, 24, 32, 48, 64, 96, 128].contains d.1 && (d.2.1 = 1 || d.2.1 = 2) && decide (d.2.2 < 6)

/-- Whether the DDR5 population is valid (R520, R521, R530): eight channels of one or two DIMMs each, as many in every
channel, and every DIMM alike. -/
def populationOk (p : PrimeResult) : Bool :=
  p.ddrFail.isEmpty && decide (p.dimms.length = 8) && p.dimms.all fun c =>
    (c.length = 1 || c.length = 2) && decide (c.length = (p.dimms.headD []).length) &&
      c.all fun d => dimmOk d && decide (some d = (p.dimms.headD []).head?)

/-- MC_INFO of a stack or channel that is trained and initialised (R519, R534). -/
def mcReadyInfo (dpc ranks gib : Nat) : W64 :=
  BitVec.ofNat 64 (dpc * 2 ^ 50 + ranks * 2 ^ 48 + gib * 2 ^ 32 + 6400 * 2 ^ 16 + 1)

/-- The HBM3 stacks trained and initialised (R530, R527). -/
def State.hbmUp (s : State) : State :=
  (List.range 4).foldl (fun s i => s.modMc i fun m => { m with info := mcReadyInfo 0 0 16 }) s

/-- The controllers that were trained leave self-refresh with their settings, and each opens one tracking window (R533). -/
def State.memRestore (s : State) : State :=
  (List.range 12).foldl (fun s i =>
    if (s.mc i).info = 0 || s.mcReady i then s else s.modMc i fun m => { m with info := setBit m.info 0 true, window := true }) s

/-- The DDR5 channels brought up (R521, R527, R530): an invalid population leaves the window unpopulated. -/
def State.ddrUp (s : State) (p : PrimeResult) : State :=
  let chans := (List.range 8).map (4 + ·)
  match populationOk p, p.dimms with
  | true, ((gib, ranks, k) :: l) :: _ =>
    let dpc := ((gib, ranks, k) :: l).length
    let s := chans.foldl (fun s i => s.modMc i fun m =>
      { m with info := mcReadyInfo dpc ranks (dpc * gib) }) s
    s.modMem fun m => { m with ddrGib := 8 * dpc * gib }
  | _, _ =>
    let s := chans.foldl (fun s i => s.modMc i fun m => { m with stat := setBit m.stat 3 true, failed := true }) s
    let s := s.modMem fun m => { m with ddrGib := 0 }
    s.bootFailure 5 (p.ddrFail.head?.elim 0 Fin.val)

/-- The slots of the kept map-out list, mapped out before the test (R578, R581). -/
def State.keepMapped (s : State) (l : List Nat) : State :=
  let s := l.foldl (fun s e =>
    (s.modEng e fun g => { g with mode := .mapped, hold := true }).modVat (vatOf e) fun x =>
      { x with lmask := x.lmask &&& ~~~ BitVec.ofNat 18 (2 ^ slotOf e) }) s
  s.modDev fun d => { d with mapped := l }

/-- The link test (R581, R588): whether the spares sufficed. -/
def State.postLinks : List (Fin 112 × TestResult × TestResult) → State → State × Bool
  | [], s => (s, true)
  | (k, f, b) :: rest, s =>
    match s.repairLink k.val f b with
    | (s, true) => (s, false)
    | (s, false) => State.postLinks rest s

/-- The vat store test (R581, R582, R587): whether the repairs sufficed. -/
def State.postStores : List (VatId × Fin 64 × TestResult) → State → State × Bool
  | [], s => (s, true)
  | (v, region, r) :: rest, s =>
    match State.repairLines v.val region.val r.misr (s.failing 2 region.val r) s with
    | (s, true) => (s, false)
    | (s, false) => State.postStores rest s

/-- The engine test (R581, R582) and the roles at its end (R583, R584): the lowest live slot is next and, with 17 or more live
engines, in standby. -/
def State.postEngines (s : State) (read : List (EngId × W64)) : State :=
  let s := read.foldl (fun s r =>
    let e := r.1.val
    let x := s.signature 1 (slotOf e)
    if (s.vat (vatOf e)).lmask.getLsbD (slotOf e) && decide (r.2 ≠ x) then s.mapOut e 6 (misrBlock r.2 x) else s) s
  allVats.foldl (fun s v => s.modVat v fun x =>
    let k := x.liveSlots.headD 0
    let st := setFld x.stStat 63 59 k
    { x with stStat := setFld st 58 54 (if 17 ≤ x.live then k else 0x1F) }) s

/-- A write of Viari through the engine broadcast sub-window of the broadcast window (R415, R517). -/
def State.toAll (s : State) (off : Nat) (w : W64) : State := s.vcsWrite .viari 80 (0x9000 + off) w

/-- Whether a word of patch RAM reads back in every engine as it is in the image, by AND reductions (R415 step 3). -/
def State.wordBack (s : State) (i : Nat) (w : BitVec 152) : State × Bool :=
  let read (off : Nat) : W64 := (s.toAll 0x200 (BitVec.ofNat 64 i)).vcsRead .viari 80 (0x9000 + off) (some 2) |>.2
  (s.toAll 0x200 (BitVec.ofNat 64 i),
    decide (read 0x208 = BitVec.ofNat 64 (w.toNat / 2 ^ 128)) && decide (read 0x210 = BitVec.ofNat 64 (w.toNat / 2 ^ 64)) &&
      decide (read 0x218 = BitVec.ofNat 64 w.toNat))

/-- The patch of the image loaded into every engine at once, in the order of R415: its words, its match registers, and every word
read back. An image with no section loads nothing (R414). The answer is whether all words came back. -/
def State.loadPatch (s : State) : State × Bool :=
  let p := s.via.fw.patch
  let s := p.1.foldl (fun s w =>
    let s := (s.toAll 0x200 (BitVec.ofNat 64 w.1)).toAll 0x208 (BitVec.ofNat 64 (w.2.toNat / 2 ^ 128))
    (s.toAll 0x210 (BitVec.ofNat 64 (w.2.toNat / 2 ^ 64))).toAll 0x218 (BitVec.ofNat 64 w.2.toNat)) s
  let s := p.2.foldl (fun s m => s.toAll (0x100 + 8 * m.1) m.2) s
  p.1.foldl (fun r w => ((r.1.wordBack w.1 w.2).1, r.2 && (r.1.wordBack w.1 w.2).2)) (s, true)

/-- Patch, Salvage code and cleared arrays (R398, R415, R578 step 7): the Salvage code goes into every engine whose SRAM_DATA may be
accessed (R511), which is not one that is mapped out. FEAT2.UPATCH is set once every word has come back. -/
def State.loadEngines (s : State) : State :=
  let sram := s.salvageSram
  let s := allVats.foldl (fun s v => (s.goodSlots v).foldl (fun s k =>
    s.modEng (18 * v + k) fun g =>
      let g := { g with mem := { g.mem with scratch := [] } }
      if g.inHold then g.sramFill sram else g) s) s
  let (s, back) := s.loadPatch
  s.modFw fun w => { w with upatch := if back then (imagePatch w.image).elim 0 fun p => numAt p 0 2 else 0 }

/-- Steps 6 to 8 of R578: self-test, patch, Control-Only. -/
def State.primeEnd (s : State) (p : PrimeResult) : State :=
  match State.postLinks p.links s with
  | (s, false) => s
  | (s, true) => match State.postStores p.stores s with
    | (s, false) => s
    | (s, true) =>
      let s := (s.postEngines p.slots).bootStage 6
      if !imagePatchOk s.via.fw.urom s.via.fw.image then
        match s.via.fw.running with
        | some b =>
          ((s.bootFailure 7 b).modFw fun w => { w with failed := w.failed ||| BitVec.ofNat 2 (2 ^ b) }).warmReset ⟨true⟩
        | none => (s.bootFailure 7 0xFF).warmReset ⟨true⟩
      else
        let s := s.loadEngines.bootStage 7
        let s := s.modFw fun w => { w with started := true }
        let s := s.modPwr fun q => { q with status := setBit q.status 0 s.avsGood }
        let s := if s.dev.mode = 1 then s.setMode 2 1 else s
        s.bootStage 8

/-- HBM3 stacks that failed training (R530, R578): TRAINFAIL in each, and in every DDR5 controller when a channel failed too (R521);
one Boot Failure record a stack, the last of them the cause of Safe Hold. -/
def State.hbmFails (s : State) (p : PrimeResult) : State :=
  let fail (s : State) (i : Nat) : State := s.modMc i fun m => { m with stat := setBit m.stat 3 true, failed := true }
  let s := p.hbmFail.foldl (fun s i => fail s i.val) s
  let s := if p.ddrFail.isEmpty then s else (List.range 8).foldl (fun s i => fail s (4 + i)) s
  let s := p.hbmFail.dropLast.foldl (fun s i => s.bootFailure 4 i.val) s
  s.cause 0x8002 0xFF 0xFF [4, BitVec.ofNat 8 (p.hbmFail.getLast?.elim 0 Fin.val)] []

/-- Whether the HBM3 controllers kept their settings and contents through a warm reset (R533). -/
def State.hbmKept (s : State) : Bool := s.dev.bootKind = 2 && decide ((s.mc 0).info ≠ 0)

/-- Memory brought up with no warm-restart record (R527, R530, R533): at a warm boot the controllers that were trained restore their
settings and contents, and only what never was is trained and initialised. -/
def State.memUp (s : State) (p : PrimeResult) : State :=
  if s.hbmKept then
    let s := s.memRestore
    if (s.mc 4).info = 0 then s.ddrUp p else s
  else ({ s with mem := { s.mem with bytes := [], poison := [], keys := [] } }.hbmUp).ddrUp p

/-- Steps 4 to 8 of R578. A warm boot restores memory and recovers the ledger (R533, R570); without a warm-restart record nothing is
recovered (log 25). -/
def State.prime (s : State) (p : PrimeResult) : State :=
  let s := s.bootStage 4
  if s.via.vault.kid.isNone then s.cause 0x8002 0xFF 0xFF [6, 0xFF] []
  else
    match s.dev.record with
    | some r =>
      let s := (s.memRestore.restore r).recover r.rel
      ((s.bootStage 5).keepMapped r.mapped).primeEnd p
    | none =>
      if !p.hbmFail.isEmpty && !s.hbmKept then s.hbmFails p
      else
        let kept := s.dev.mapped
        (((s.memUp p).bootStage 5).keepMapped kept).primeEnd p

/-- Control-Only on the host load path (R579): HBM3 is trained, or at a warm boot restored (R533), and Viari waits for an image. -/
def State.primeHost (s : State) (p : PrimeResult) : State :=
  if s.hbmKept then s.memRestore.setMode 2 1
  else if !p.hbmFail.isEmpty then s.hbmFails p
  else s.hbmUp.setMode 2 1

/-- PRIME_COMPLETE (R570, R578, R579, R581): Prime ends in Control-Only, or in Safe Hold at a failure. -/
def execPrimeComplete (p : PrimeResult) (s : State) : Answer :=
  if s.dev.bscan || s.dev.warmHeld || s.dev.coldWait.isSome then .next s
  else if s.dev.mode = 1 then .next (if s.via.fw.hostLoad then s.primeHost p else s.prime p)
  else if s.dev.mode = 2 && s.romOnly && !s.via.fw.image.isEmpty then .next (s.prime p)
  else .next s

/-! ### VDD_AON (R611, R628, R630) -/

/-- VDD_AON_LOW (R630): the vault, the cave log and the sideband port are held in reset, and PWRGOOD is ignored. -/
def execVddAonLow (s : State) : Answer :=
  .next ((s.modDev fun d => { d with aon := false, sbUp := false, pgLow := false }).modVault Vault.cleared)

/-- VDD_AON_UP (R611, R628, R630): the VDD_AON domain leaves reset; the SMBus read pointers are 0. PWRGOOD is no longer ignored: a
device whose PWRGOOD fell meanwhile goes to Dormant. -/
def execVddAonUp (s : State) : Answer :=
  let fell := s.dev.pgLow
  let s := (s.modDev fun d => { d with aon := true, sbUp := true, pgLow := false }).modCave fun c =>
    { c with ringPtr := 0, areaPrev := false, areaPtr := 0 }
  .next (if fell then s.dormant else s)

end Sys2Proof.Machine
end

