-- ==== Sys2Proof/Machine/Board.lean ====
section
/-! DEFINITION. The board side: the two SMBus ports and the JTAG port (R604, R610 to R612, R618, R623, R625). -/

namespace Sys2Proof.Machine

/-! ### SMBus (R611, R623) -/

/-- Whether a port answers: the sideband port whenever VDD_AON is present, the MG port in any mode but Dormant. -/
def State.smbusUp (s : State) : SmbPort → Bool
  | .sb => s.dev.aon && s.dev.sbUp
  | .mg => decide (s.dev.mode ≠ 0)

/-- A transaction: nothing from a port that does not answer, a NACK for a wrong PEC, else what it does (R611). -/
def State.smbus (s : State) (port : SmbPort) (pec : Bool) (f : State → State) : Answer :=
  if !s.smbusUp port then .next s else if pec then .next (f s) else .next (s.emit (.nack port))

/-- One byte taken into the CRC-8 of SMBus, whose polynomial is x^8 + x^2 + x + 1 (log 39). -/
def crc8 (c b : Byte) : Byte :=
  (List.range 8).foldl (fun c _ => if c.getLsbD 7 then (c <<< 1) ^^^ 0x07 else c <<< 1) (c ^^^ b)

/-- The address of a port (R611, R623). -/
def smbAddr : SmbPort → Nat
  | .sb => 0x5A
  | .mg => 0x5B

/-- What a port sends in a read: its bytes, and the PEC over the whole transaction (R611, R623, log 39). -/
def smbRead (port : SmbPort) (code : Byte) (bytes : List Byte) : List Byte :=
  let a := 2 * smbAddr port
  bytes ++ [([BitVec.ofNat 8 a, code, BitVec.ofNat 8 (a + 1)] ++ bytes).foldl crc8 0]

/-- A block read: the byte count comes before the bytes. -/
def smbBlock (port : SmbPort) (code : Byte) (bytes : List Byte) : List Byte :=
  smbRead port code (BitVec.ofNat 8 bytes.length :: bytes)

/-- The first-failure area that the area pointer selects. -/
def Cave.area (c : Cave) (previous : Bool) : Bytes := if previous then c.prev else c.cur

/-- 32 bytes of the record ring at a byte address (R605). -/
def Cave.ringBytes (c : Cave) (a : Nat) : List Byte := slice (c.slotBytes (a / 64)) (a % 64) 32

/-- SMBUS_STATUS_READ (R611), code 0x01. With no record written yet the RSEQ of the last one is open (log 4). -/
def execSmbusStatusRead (port : SmbPort) (pec : Bool) (s : State) : Answer :=
  s.smbus port pec fun s =>
    let c := s.cave
    let last := if c.rseq = 0 then Config.freeNat s.fresh else c.rseq - 1
    let s := if c.rseq = 0 then s.draw else s
    s.emit (.smbus port (smbBlock port 0x01
      (toBytes 2 (c.rseq % 16384) ++ toBytes 6 last ++ toBytes 4 c.cold ++ toBytes 4 c.warm)))

/-- SMBUS_RING_POINTER (R611), code 0x02; the pointer wraps after slot 16,383. -/
def execSmbusRingPointer (port : SmbPort) (pec : Bool) (w : BitVec 16) (s : State) : Answer :=
  s.smbus port pec fun s => s.caveOn fun c => { c with ringPtr := w.toNat % 16384 * 64 }

/-- SMBUS_AREA_POINTER (R611), code 0x03. -/
def execSmbusAreaPointer (port : SmbPort) (pec : Bool) (w : BitVec 16) (s : State) : Answer :=
  s.smbus port pec fun s => s.caveOn fun c => { c with areaPrev := w.getLsbD 15, areaPtr := w.toNat % 128 }

/-- SMBUS_RING_READ (R611), code 0x10. -/
def execSmbusRingRead (port : SmbPort) (pec : Bool) (s : State) : Answer :=
  s.smbus port pec fun s =>
    (s.caveOn fun c => { c with ringPtr := (c.ringPtr + 32) % 2 ^ 20 }).emit
      (.smbus port (smbBlock port 0x10 (s.cave.ringBytes s.cave.ringPtr)))

/-- SMBUS_AREA_READ (R611), code 0x11. -/
def execSmbusAreaRead (port : SmbPort) (pec : Bool) (s : State) : Answer :=
  s.smbus port pec fun s =>
    (s.caveOn fun c => { c with areaPtr := (c.areaPtr + 1) % 128 }).emit
      (.smbus port (smbBlock port 0x11 (readBytes (s.cave.area s.cave.areaPrev) (32 * s.cave.areaPtr) 32)))

/-- SMBUS_MODE_READ (R611), code 0x20: the mode, and whether only VDD_AON is powered. -/
def execSmbusModeRead (port : SmbPort) (pec : Bool) (s : State) : Answer :=
  s.smbus port pec fun s =>
    s.emit (.smbus port (smbRead port 0x20 [BitVec.ofNat 8 (s.dev.mode + if s.dev.mode = 0 then 128 else 0)]))

/-- SMBUS_POWER_STATUS (R623), code 0x30: PWR_STATUS on the MG port; a code the sideband port does not have. -/
def execSmbusPowerStatus (port : SmbPort) (pec : Bool) (s : State) : Answer :=
  s.smbus port pec fun s =>
    match port with
    | .sb => s.emit (.nack .sb)
    | .mg => s.emit (.smbus .mg (smbBlock .mg 0x30 (toBytes 8 s.pwrStatus.toNat)))

/-- SMBUS_TIMEOUT (R623): the port releases the bus; a transaction it was in has no effect. -/
def execSmbusTimeout (_port : SmbPort) (s : State) : Answer := .next s

/-! ### JTAG (R604, R612, R618, R625) -/

/-- Whether EXTEST, CLAMP and HIGHZ take effect (R618, R625). -/
def State.bscanOpen (s : State) : Bool := s.dev.mode = 11 || s.dev.bscan

/-- Whether the private instructions operate (R604). -/
def State.scanOpen (s : State) (testEn : Bool) : Bool := s.dev.mode = 11 && s.dev.scanOn && testEn

/-- An instruction of the powered TAP: its code is shifted in, and the 0x01 that the instruction register captured is shifted
out (R625). -/
def State.jtag (s : State) (code : Nat) (f : State → State) : Answer :=
  if s.dev.mode = 0 then .next s else .next (f ((s.modDev fun d => { d with tap := code }).emit (.tdo 0x01)))

/-- A scan of n bits through the bypass register: it captures 0 and delays TDI by one bit (R625). -/
def State.bypass (s : State) (n d : Nat) : State :=
  (s.modDev fun x => { x with tapReg := d / 2 ^ (n - 1) % 2 }).emit (.tdo (2 * d % 2 ^ n))

/-- TAP_RESET (R625): IDCODE is selected. -/
def execTapReset (s : State) : Answer :=
  .next (if s.dev.mode = 0 then s else s.modDev fun d => { d with tap := 0x02 })

/-- EXTEST (R625): the cells drive the pins where it takes effect; what the cells capture is open (log 8). -/
def execExtest (cells : BitVec 1356) (s : State) : Answer :=
  s.jtag 0x00 fun s =>
    if s.bscanOpen then
      let s := s.modDev fun d => { d with boundary := cells }
      (s.draw.emit (.tdo (Config.scanCapture s.fresh cells.toNat % 2 ^ 1356))).emit (.pins cells)
    else s.bypass 1356 cells.toNat

/-- SAMPLE_PRELOAD (R625): the pins are sampled and shifted out, and the cells take what is shifted in. -/
def execSamplePreload (pins cells : BitVec 1356) (s : State) : Answer :=
  s.jtag 0x01 fun s => (s.modDev fun d => { d with boundary := cells }).emit (.tdo pins.toNat)

/-- IDCODE (R625). -/
def execIdcode (s : State) : Answer := s.jtag 0x02 fun s => s.emit (.tdo 0x0093056B)

/-- CLAMP (R625): the pins are held from the boundary register where it takes effect. -/
def execClamp (d : Bool) (s : State) : Answer :=
  s.jtag 0x03 fun s =>
    (if s.bscanOpen then s.emit (.pins s.dev.boundary) else s).bypass 1 d.toNat

/-- HIGHZ (R625): the outputs float where it takes effect. -/
def execHighz (d : Bool) (s : State) : Answer :=
  s.jtag 0x04 fun s => (if s.bscanOpen then s.emit .hiz else s).bypass 1 d.toNat

/-- A private instruction with a data register of n bits: what it shifts out is open (log 8). -/
def State.scan (s : State) (testEn : Bool) (n d : Nat) : State :=
  if s.scanOpen testEn then
    (s.draw.modDev fun x => { x with tapReg := d }).emit (.tdo (Config.scanCapture s.fresh d % 2 ^ n))
  else s.bypass n d

/-- SCAN_CFG (R604, R625). -/
def execScanCfg (testEn : Bool) (d : BitVec 64) (s : State) : Answer := s.jtag 0x40 fun s => s.scan testEn 64 d.toNat

/-- SCAN_SHIFT (R604, R625). -/
def execScanShift (testEn : Bool) (d : BitVec 1024) (s : State) : Answer :=
  s.jtag 0x41 fun s => s.scan testEn 1024 d.toNat

/-- MBIST_ACC (R604, R625). -/
def execMbistAcc (testEn : Bool) (d : BitVec 128) (s : State) : Answer :=
  s.jtag 0x42 fun s => s.scan testEn 128 d.toNat

/-- The 256 bits that CAVE_RD captures at an address (R612): the ring, or the current area and then the previous one. -/
def State.caveBits (s : State) (addr : BitVec 16) : List Byte :=
  let u := addr.toNat % 2 ^ 15
  if addr.getLsbD 15 then readBytes (s.cave.area (decide (128 ≤ u))) (32 * (u % 128)) 32 else s.cave.ringBytes (32 * u)

/-- CAVE_RD (R604, R612). Beyond the two areas the captured bits are open (log 8). -/
def execCaveRd (testEn : Bool) (addr : BitVec 16) (s : State) : Answer :=
  s.jtag 0x43 fun s =>
    if !s.scanOpen testEn then s.bypass 272 addr.toNat
    else
      let s := s.modDev fun x => { x with tapReg := addr.toNat }
      if addr.getLsbD 15 && decide (256 ≤ addr.toNat % 2 ^ 15) then
        s.draw.emit (.tdo (Config.scanCapture s.fresh addr.toNat % 2 ^ 256))
      else s.emit (.tdo (ofBytes (s.caveBits addr)))

/-- BYPASS (R625). -/
def execBypass (d : Bool) (s : State) : Answer := s.jtag 0xFF fun s => s.bypass 1 d.toNat

end Sys2Proof.Machine
end

