-- ==== Sys2Proof/Machine/Curd.lean ====
section
/-! DEFINITION. Curd: the opcode table, the operand stack, the order of checks and effects (R207 to R231), the string
instructions and the repeat prefix, and one meaning for each opcode row. -/

namespace Sys2Proof.Machine

/-! ### The opcode table (R216) -/

/-- Bytes of an instruction by opcode; none for an opcode the table does not list (R217). -/
def curdLen (op : Nat) : Option Nat :=
  if op ≤ 0x05 ∨ op = 0x07 then some 1
  else if op = 0x06 then some 2
  else if op = 0x10 then some 2
  else if op = 0x11 ∨ op = 0x12 then some 5
  else if op = 0x13 then some 3
  else if op = 0x17 then some 2
  else if (0x20 ≤ op ∧ op ≤ 0x24) ∨ (0x28 ≤ op ∧ op ≤ 0x2C) then some 4
  else if 0x2D ≤ op ∧ op ≤ 0x2F then some 2
  else if 0x30 ≤ op ∧ op ≤ 0x3B then some 1
  else if (0x40 ≤ op ∧ op ≤ 0x46) ∨ (0x48 ≤ op ∧ op ≤ 0x4B) ∨ (0x50 ≤ op ∧ op ≤ 0x56) then some 3
  else if op = 0x60 then some 2
  else if 0x61 ≤ op ∧ op ≤ 0x64 then some 3
  else if 0x65 ≤ op ∧ op ≤ 0x67 then some 1
  else if op = 0x68 then some 2
  else if 0x70 ≤ op ∧ op ≤ 0x76 then some 1
  else if (0x80 ≤ op ∧ op ≤ 0x8D) ∨ (0x90 ≤ op ∧ op ≤ 0x92) then some 3
  else if (0xA0 ≤ op ∧ op ≤ 0xA4) ∨ op = 0xA8 then some 3
  else if op = 0xF0 then some 1
  else none

/-- The trigger port an opcode calls; 0 when it calls no unit with an m16 or binary operands. -/
def curdPort (op : Nat) : Nat :=
  if 0x30 ≤ op ∧ op ≤ 0x3B then 0x210 + (op - 0x30)
  else if 0x40 ≤ op ∧ op ≤ 0x46 then 0x250 + (op - 0x40)
  else if op = 0x48 ∨ op = 0x49 then 0x270
  else if op = 0x4A ∨ op = 0x4B then 0x290
  else if 0x50 ≤ op ∧ op ≤ 0x56 then 0x2D0 + (op - 0x50)
  else if 0x80 ≤ op ∧ op ≤ 0x8D then 0x2B0 + (op - 0x80)
  else if 0x90 ≤ op ∧ op ≤ 0x92 then 0x2F0 + (op - 0x90)
  else if 0xA0 ≤ op ∧ op ≤ 0xA4 then 0x310 + (op - 0xA0)
  else if op = 0xA8 then 0x330
  else 0

/-- Whether an operand byte holds a reserved bit or value (R209 order 4, R218, R219). -/
def curdReserved (op imm : Nat) : Bool :=
  if op = 0x06 then decide (imm / 16 ≠ 0)
  else if op = 0x17 then decide (8 ≤ imm)
  else if 0x20 ≤ op ∧ op ≤ 0x2C then decide (8 ≤ imm / 2 ^ 16)
  else if 0x40 ≤ op ∧ curdPort op ≠ 0 then
    decide (2 ^ 9 ≤ imm) || opmodBad (curdPort op) imm || decide (guardField (curdPort op) imm ≠ 0)
  else false

/-- Elements of a decimal floating-point operand (R220). -/
def wideOf (imm : Nat) : Nat := if imm % 2 = 1 then 2 else 1

/-- Elements an instruction pops (R216, R220, R228), without the count of a rep. -/
def curdPops (op imm : Nat) : Nat :=
  let w := wideOf imm
  if op = 0x01 ∨ op = 0x02 ∨ op = 0x17 then 1
  else if op = 0x03 ∨ op = 0x04 then 2
  else if op = 0x05 then 3
  else if 0x20 ≤ op ∧ op ≤ 0x24 then 1
  else if 0x28 ≤ op ∧ op ≤ 0x2C then 2
  else if op = 0x2E then 1
  else if 0x30 ≤ op ∧ op ≤ 0x42 then 2
  else if 0x43 ≤ op ∧ op ≤ 0x46 then 1
  else if 0x48 ≤ op ∧ op ≤ 0x4B then 2
  else if 0x50 ≤ op ∧ op ≤ 0x52 then 1
  else if op = 0x53 then w
  else if 0x54 ≤ op ∧ op ≤ 0x56 then 3
  else if op = 0x62 ∨ op = 0x63 ∨ op = 0x65 ∨ op = 0x67 then 1
  else if op = 0x71 ∨ op = 0x73 ∨ op = 0x75 then 1
  else if op = 0x84 then 3 * w
  else if op = 0x88 then w
  else if op = 0x89 then w + 1
  else if op = 0x8C then 1
  else if op = 0x8D then 2
  else if 0x80 ≤ op ∧ op ≤ 0x8B then 2 * w
  else if 0x90 ≤ op ∧ op ≤ 0x92 then 1
  else if op = 0xA3 then 4
  else if 0xA0 ≤ op ∧ op ≤ 0xA8 then 3
  else 0

/-- Elements an instruction pushes (R216, R220, R228). -/
def curdPushes (op imm : Nat) : Nat :=
  let w := wideOf imm
  if op = 0x02 ∨ op = 0x03 then 2
  else if op = 0x04 ∨ op = 0x05 then 3
  else if op = 0x06 ∨ op = 0x07 ∨ (0x10 ≤ op ∧ op ≤ 0x24) then 1
  else if op = 0x2D then 1
  else if 0x30 ≤ op ∧ op ≤ 0x46 then 1
  else if op = 0x48 ∨ op = 0x4A then 2
  else if op = 0x49 ∨ op = 0x4B ∨ op = 0x50 ∨ op = 0x51 ∨ op = 0x53 then 1
  else if op = 0x52 then w
  else if 0x54 ≤ op ∧ op ≤ 0x56 then 1
  else if op = 0x70 ∨ op = 0x72 ∨ op = 0x74 ∨ op = 0x76 then 1
  else if op = 0x85 ∨ op = 0x86 ∨ op = 0x8D then 1
  else if op = 0x8C then 2
  else if 0x80 ≤ op ∧ op ≤ 0x8B then w
  else if 0x90 ≤ op ∧ op ≤ 0xA8 then 1
  else 0

/-! ### The operand stack (R213) -/

/-- Elements d on written to their registers, and OSP (R213 step 4). -/
def Eng.push (g : Eng) (d : Nat) (l : List Tally) : Eng :=
  { g with
    t := (l.foldl (fun (p : Nat × List Tally) x => (p.1 + 1, p.2.set (elemReg p.1) x)) (d, g.t)).2,
    cr := { g.cr with osp := BitVec.ofNat 32 (g.cr.oslo.toNat + 12 * (d + l.length)) } }

/-! ### What an instruction does beside its stack effect -/

/-- The operation of an instruction whose checks passed: its own loads and units with the elements it pushes, its own
stores, where it continues, what else it changes, whether one of its loads waits, and what the parts of a split load that
waits read as it issued (R213, R214, R360). -/
structure CAct where
  run : State → Except Halt (State × List Tally) := fun s => .ok (s, [])
  store : State → Except Halt State := .ok
  go : Option (Nat × Nat) := none
  last : Eng → Eng := id
  waits : Bool := false
  early : List (Nat × List Byte) := []

/-- An operation that only pushes. -/
def CAct.push (l : List Tally) : CAct := { run := fun s => .ok (s, l) }

/-- Bits 63:0 of an element (R210). -/
def lo64 (x : Tally) : W64 := x.setWidth 64

/-- A signed operand of n bits. -/
def sext (n v : Nat) : Int := if v % 2 ^ n < 2 ^ (n - 1) then v % 2 ^ n else (v % 2 ^ n : Int) - 2 ^ n

/-- An offset plus a signed displacement, modulo 2^32. -/
def offAdd (off : Nat) (d : Int) : Nat := ((off : Int) + d).emod (2 ^ 32) |>.toNat

/-- A DF operand from the elements of an instruction (R220). -/
def dfAt (w : Bool) (l : List Tally) (i : Nat) : DfLatch :=
  if w then ⟨lo64 (l.getD i 0), lo64 (l.getD (i + 1) 0), true⟩ else ⟨lo64 (l.getD i 0), 0, false⟩

/-- The operand latches an instruction sets before its trigger (R216: o = a; R220). -/
def curdLatch (q : Ports) (op imm : Nat) (l : List Tally) : Ports :=
  let a := l.getD 0 0
  let w := decide (imm % 2 = 1)
  let n := wideOf imm
  if 0x30 ≤ op ∧ op ≤ 0x3B then { q with alu0o := lo64 a }
  else if 0x40 ≤ op ∧ op ≤ 0x42 then { q with dao := a }
  else if op = 0x48 ∨ op = 0x49 then { q with dmo := a }
  else if op = 0x4A ∨ op = 0x4B then { q with ddo := a }
  else if op = 0x84 then { q with dfo := dfAt w l 0, dfo2 := dfAt w l (2 * n) }
  else if op = 0x89 then { q with dfo2 := dfAt false l n }
  else if (0x80 ≤ op ∧ op ≤ 0x87) ∨ op = 0x8A ∨ op = 0x8B then { q with dfo := dfAt w l 0 }
  else q

/-- The value an instruction moves into its trigger, and whether it is a decimal128 pair (R216: t = b; R220). -/
def curdTrig (op imm : Nat) (l : List Tally) : BitVec 128 × Bool :=
  let w := decide (imm % 2 = 1)
  let one (i : Nat) : BitVec 128 × Bool := ((l.getD i 0).setWidth 128, false)
  let df (w : Bool) (i : Nat) : BitVec 128 × Bool :=
    let x := dfAt w l i
    if w then (BitVec.ofNat 128 (x.hi.toNat * 2 ^ 64 + x.lo.toNat), true) else (x.hi.setWidth 128, false)
  if op ≤ 0x42 ∨ (0x48 ≤ op ∧ op ≤ 0x4B) then one 1
  else if op = 0x53 then df w 0
  else if op = 0x88 ∨ op = 0x89 then df w 0
  else if op = 0x8C then df false 0
  else if op = 0x8D then df true 0
  else if 0x80 ≤ op ∧ op ≤ 0x8B then df w (wideOf imm)
  else one 0

/-- A result that may be a decimal128 pair as elements (R220). -/
def Wide.elems (x : Wide) : List Tally :=
  if x.wide then [((x.val >>> (64 : Nat)).setWidth 64).setWidth 96, (x.val.setWidth 64).setWidth 96]
  else [x.val.setWidth 96]

/-- The elements an instruction pushes from the result ports of its unit (R216, R220). -/
def curdResult (q : Ports) (op : Nat) : List Tally :=
  match unitOf (curdPort op) with
  | 0x10 => [q.alu0r.setWidth 96]
  | 0x12 => [q.dar]
  | 0x13 =>
    let p := (q.prods.getLast?.map fun p => (p.hi, p.lo)).getD (0, 0)
    if op = 0x48 then [p.1, p.2] else [p.2]
  | 0x14 => if op = 0x4A then [q.dq, q.drm] else [q.dq]
  | 0x15 => q.dfr.elems
  | 0x16 => q.cvr.elems
  | _ => [q.ckr]

/-- An opcode that calls a unit (R221): the trigger with the elements as operands, waiting for a busy divide; DM
products have landed when the instruction completes. -/
def State.curdUnit (s : State) (e : Nat) (v : Env) (op imm : Nat) (l : List Tally) : Prep CAct :=
  let g := s.eng e
  if g.busyFor (curdPort op) then (s, .error .stall)
  else
    let po := curdLatch g.ports op imm l
    let t := curdTrig op imm l
    match s.unitOp e v po 3 op (curdPort op) (imm % 2 ^ 9) t.1 t.2 with
    | (s, .error h) => (s, .error h)
    | (s, .ok a) => (s, .ok {
      run := fun s =>
        let s := s.modEng e fun g => g.setPorts g.hset fun q => curdLatch q op imm l
        match a.run s with
        | .error h => .error h
        | .ok s =>
          let s := s.modEng e fun g => g.setPorts g.hset fun q => { q with prods := landProds q.prods }
          .ok (s, curdResult (s.eng e).ports op) })

/-- A load that pushes what it read (R216, R188). -/
def State.curdLoad (s : State) (e : Nat) (v : Env) (bank off n align : Nat) : Prep CAct :=
  match s.access e (ueLines v) (s.ctx e) .load bank off n align with
  | (s, .error h) => (s, .error h)
  | (s, .ok p) => (s, .ok {
      run := fun s => match s.load e p n with
        | .error h => .error h
        | .ok (s, b) => .ok (s, [BitVec.ofNat 96 (ofBytes b)])
      waits := s.waits e v p
      early := if s.waits e v p then s.earlyOf e p else [] })

/-- A store of an element (R216, R188). -/
def State.curdStore (s : State) (e : Nat) (v : Env) (bank off n align : Nat) (x : Tally) : Prep CAct :=
  match s.access e (ueLines v) (s.ctx e) .store bank off n align with
  | (s, .error h) => (s, .error h)
  | (s, .ok p) => (s, .ok { store := fun s => s.store e p (toBytes n (x.toNat % 2 ^ (8 * n))) })

/-- A call's push of its return record at SB:SP − 8 (R224), and where the call goes. -/
def State.curdCall (s : State) (e : Nat) (v : Env) (next : Nat) (dst : Nat × Nat) (f : Eng → Eng) : Prep CAct :=
  let c := (s.eng e).cr
  let sp := c.sp - 8
  match s.access e (ueLines v) (s.ctx e) .store c.esw.sb.toNat sp.toNat 8 1 with
  | (s, .error h) => (s, .error h)
  | (s, .ok p) => (s, .ok {
      store := fun s => s.store e p (retRecord c.esw.cb.toNat next)
      go := some dst
      last := fun g => f { g with cr := { g.cr with sp := sp } } })

/-- A far address (R223). -/
def farOf (x : Tally) : Nat × Nat := (x.toNat / 2 ^ 32 % 2 ^ 16, x.toNat % 2 ^ 32)

/-- The checks and the operation of an opcode that is not string-class (R216, R222 to R225): l its popped elements
bottom first, d the depth, len its bytes. -/
def State.curdBody (s : State) (e : Nat) (v : Env) (op imm len d : Nat) (l : List Tally) : Prep CAct :=
  let g := s.eng e
  let c := g.cr
  let pc := g.pc.toNat
  let next := (pc + len) % 2 ^ 32
  let a := l.getD 0 0
  let b := l.getD 1 0
  let ok (x : CAct) : Prep CAct := (s, .ok x)
  let bad : Prep CAct := (s, .error (.exc { cls := xReserved, faddr := op }))
  let bin (i : Int) : Tally := (BitVec.ofInt 64 i).setWidth 96
  let jump (off : Nat) : CAct := { go := some (c.esw.cb.toNat, off) }
  match op with
  | 0x00 => ok {}
  | 0x01 => ok {}
  | 0x02 => ok (.push [a, a])
  | 0x03 => ok (.push [b, a])
  | 0x04 => ok (.push [a, b, a])
  | 0x05 => ok (.push [b, l.getD 2 0, a])
  | 0x06 => ok (.push [g.t.getD (elemReg (d - 1 - imm % 16)) 0])
  | 0x07 => ok (.push [BitVec.ofNat 96 d])
  | 0x10 => ok (.push [bin (sext 8 imm)])
  | 0x11 => ok (.push [bin (sext 32 imm)])
  | 0x12 => ok (.push [BitVec.ofNat 96 imm])
  | 0x13 => match s.fetchAt e (ueLines v) (offAdd pc (sext 16 imm)) 12 with
    | (s, .error h) => (s, .error h)
    | (s, .ok l) => (s, .ok (.push [BitVec.ofNat 96 (ofBytes l)]))
  | 0x17 => ok (.push [BitVec.ofNat 96 ((g.b.getD (imm % 8) 0).toNat * 2 ^ 32 + a.toNat % 2 ^ 32)])
  | 0x2D => s.curdLoad e v c.esw.sb.toNat ((c.sp.toNat + 4 * imm) % 2 ^ 32) 12 4
  | 0x2E => s.curdStore e v c.esw.sb.toNat ((c.sp.toNat + 4 * imm) % 2 ^ 32) 12 4 a
  | 0x2F => ok { last := fun g => { g with cr := { g.cr with
      sp := BitVec.ofNat 32 (offAdd g.cr.sp.toNat (4 * sext 8 imm)) } } }
  | 0x60 => ok (jump (offAdd pc (sext 8 imm)))
  | 0x61 => ok (jump (offAdd pc (sext 16 imm)))
  | 0x62 => ok (if lo64 a = 0 then jump (offAdd pc (sext 16 imm)) else {})
  | 0x63 => ok (if lo64 a ≠ 0 then jump (offAdd pc (sext 16 imm)) else {})
  | 0x64 => s.curdCall e v next (c.esw.cb.toNat, offAdd pc (sext 16 imm)) id
  | 0x65 => s.curdCall e v next (farOf a) id
  | 0x66 => match s.access e (ueLines v) (s.ctx e) .load c.esw.sb.toNat c.sp.toNat 8 1 with
    | (s, .error h) => (s, .error h)
    | (s, .ok p) => match s.load e p 8 with
      | .error h => (s, .error h)
      | .ok (s1, r) =>
        if s.waits e v p then (s, .ok { waits := true, early := s.earlyOf e p })
        else if numAt r 0 2 ≠ 0 then (s.keepReads s1, .error (.exc { cls := xReserved, faddr := op }))
        else (s, .ok {
          run := fun s => match s.load e p 8 with
            | .error h => .error h
            | .ok (s, _) => .ok (s, [])
          go := some (numAt r 2 2, numAt r 4 4)
          last := fun g => { g with cr := { g.cr with sp := g.cr.sp + 8 } } })
  | 0x67 => ok { go := some (farOf a) }
  | 0x68 => s.curdCall e v next (fld c.xvec 47 32, fld c.xvec 31 12 * 4096 + 64 * 0x1A) fun g =>
      { g with t := g.t.set 0 (BitVec.ofNat 96 (imm % 2 ^ 8)), cr := { g.cr with esw := { g.cr.esw with priv := true } } }
  | 0x70 => ok (.push [c.esw.drnd.setWidth 96])
  | 0x71 => if 8 ≤ (lo64 a).toNat then bad else
      ok { last := fun g => { g with cr := { g.cr with esw := { g.cr.esw with drnd := a.setWidth 3 } } } }
  | 0x72 => ok (.push [c.esw.dfrnd.setWidth 96])
  | 0x73 => if 5 ≤ (lo64 a).toNat then bad else
      ok { last := fun g => { g with cr := { g.cr with esw := { g.cr.esw with dfrnd := a.setWidth 3 } } } }
  | 0x74 => if g.dd.isSome || g.df.isSome then (s, .error .stall) else ok (.push [c.aflag.setWidth 96])
  | 0x75 => if (lo64 a) &&& BitVec.ofNat 64 (2 ^ 64 - 1 - 0x71F) ≠ 0 then bad else
      ok { last := fun g => { g with cr := { g.cr with aflag := g.cr.aflag &&& ~~~ lo64 a } } }
  | 0x76 => ok (.push [BitVec.ofNat 96 (fld (s.crRead e 0x12) 63 16)])
  | _ =>
    let k := imm / 2 ^ 16
    if 0x20 ≤ op ∧ op ≤ 0x24 then
      let (n, al) := lsSize (op - 0x20)
      s.curdLoad e v (g.b.getD (k % 8) 0).toNat ((a.toNat + imm % 2 ^ 16) % 2 ^ 32) n al
    else if 0x28 ≤ op ∧ op ≤ 0x2C then
      let (n, al) := lsSize (op - 0x28)
      s.curdStore e v (g.b.getD (k % 8) 0).toNat ((b.toNat + imm % 2 ^ 16) % 2 ^ 32) n al a
    else if curdPort op = 0 then (s, .error .refuse)
    else s.curdUnit e v op imm l

/-! ### One instruction (R209, R213, R214) -/

/-- The popped elements of a depth, bottom first (R213 step 1). -/
def Eng.popped (g : Eng) (d k : Nat) : List Tally := (List.range k).map fun j => g.t.getD (elemReg (d - k + j)) 0

/-- An instruction that is not string-class, or a rep whose count is 0, from its stack checks on (R209 orders 6 to 9). -/
def State.curdExec (s : State) (e : Nat) (v : Env) (insn : Insn) (len k m : Nat) (under : Bool)
    (body : State → List Tally → Prep CAct) : Answer :=
  let c := (s.eng e).cr
  let d := c.depth
  let d2 := d - k + m
  if d < k || under then s.halted s e (ueLines v) len (.exc { cls := xUnderflow })
  else if c.capacity < d2 then s.halted s e (ueLines v) len (.exc { cls := xOverflow })
  else match State.checkSlots e (ueLines v) .store (spillsOf d d2) s with
  | (s1, .error h) => s.halted s1 e (ueLines v) len h
  | (s1, .ok sp) => match State.checkSlots e (ueLines v) .load (fillsOf d d2) s1 with
    | (s1, .error h) => s.halted s1 e (ueLines v) len h
    | (s1, .ok fl) => match body s1 ((s1.eng e).popped d k) with
      | (s1, .error h) => s.halted s1 e (ueLines v) len h
      | (s1, .ok a) =>
        if a.waits || fl.any (fun p => s1.waits e v p.2) then
          let early := (fl.map fun p => if s1.waits e v p.2 then s1.earlyOf e p.2 else []).flatten
          .next (s1.modEng e fun g => { g with
            missing := some (insn, [0]), seen := s1.modeAt e, mem := { g.mem with early := a.early ++ early } })
        else
          let t := (s1.eng e).t
          let done : Except Halt State := match a.run s1 with
            | .error h => .error h
            | .ok (s, r) => match State.spill e t sp s with
              | .error h => .error h
              | .ok s => match a.store s with
                | .error h => .error h
                | .ok s => match State.fillRegs e fl s with
                  | .error h => .error h
                  | .ok s => .ok (s.modEng e fun g =>
                      let g := (a.last (g.push (d - k) r)).countUp
                      match a.go with
                      | none => { g with pc := g.pc + BitVec.ofNat 32 len }
                      | some (bank, off) => { g with
                          pc := BitVec.ofNat 32 off,
                          cr := { g.cr with esw := { g.cr.esw with cb := BitVec.ofNat 16 bank } } })
          match done with
          | .error h => s.halted s1 e (ueLines v) len h
          | .ok s => .next s

/-- The string state as a Curd instruction writes it from its popped elements (R284). -/
def Cr.strLoad (c : Cr) (op : Nat) (l : List Tally) : Cr :=
  let va (i : Nat) : BitVec 48 := (l.getD i 0).setWidth 48
  let cnt (i : Nat) : BitVec 32 := (l.getD i 0).setWidth 32
  let byte (i : Nat) : W64 := ((l.getD i 0).setWidth 8).setWidth 64
  match op with
  | 0xA2 => { c with ssrc := va 0, scnt := cnt 1, saux := byte 2 }
  | 0xA3 => { c with ssrc := va 0, sdst := va 1, scnt := cnt 2, saux := BitVec.ofNat 64 (fld (lo64 (l.getD 3 0)) 47 8) }
  | 0xA4 => { c with sdst := va 0, scnt := cnt 1, saux := byte 2 }
  | 0xA8 => { c with ssrc := va 0, sdst := va 1, scnt := 0, saux := (va 2).setWidth 64 }
  | _ => { c with ssrc := va 0, sdst := va 1, scnt := cnt 2, saux := 0 }

/-- A string-class instruction, or a rep with its instruction (R228 to R230, R281): it resumes when IP is 1; else it
pops its operands, writes the string state and starts. The iterations follow (STRING_ITERATION), and after them its fills,
which are checked here (R214). What it popped is kept for an exception of its own that is precise (R222). -/
def State.curdStr (s : State) (e : Nat) (v : Env) (op imm len : Nat) (rep : Bool) : Answer :=
  let g := s.eng e
  let c := g.cr
  let d := c.depth
  let insn : Insn := .curd (BitVec.ofNat 8 op) (BitVec.ofNat 32 imm) rep
  let run (popped : Bool) : StrRun := {
    insn := insn, port := BitVec.ofNat 12 (curdPort op), opmod := BitVec.ofNat 9 imm, vals := [], popped := popped, deep := d
    back := if popped then some (g.t, c) else none
    micro := { at_ := rnEntry (curdPort op) (imm % 2 ^ 9) c.ip } }
  if g.busyFor (curdPort op) then .next s
  else if c.ip then
    if c.capacity < d + 1 then s.halted s e (ueLines v) len (.exc { cls := xOverflow })
    else match State.checkSlots e (ueLines v) .store (spillsOf d (d + 1)) s with
    | (s1, .error h) => s.halted s1 e (ueLines v) len h
    | (s1, .ok _) => .next (s1.modEng e fun g => { g with str := some (run false), seen := s1.modeAt e })
  else
    let k := curdPops op imm + rep.toNat
    let l := g.popped d k
    let count := (l.getD (k - 1) 0).toNat % 2 ^ 32
    let c1 := c.strLoad op l
    let badTbl := decide (op = 0xA3) && decide ((l.getD 3 0).toNat % 2 ^ 8 ≠ 0)
    let bad : Halt := .exc { cls := xReserved, faddr := op }
    if rep && d ≥ k && count = 0 then
      s.curdExec e v insn len k 1 false fun s _ =>
        if badTbl then (s, .error bad)
        else (s, .ok { CAct.push [0] with last := fun g => { g with cr := { g.cr with lc := 0 } } })
    else if d < k then s.halted s e (ueLines v) len (.exc { cls := xUnderflow })
    else match State.checkSlots e (ueLines v) .load (fillsOf d (d - k + 1)) s with
    | (s1, .error h) => s.halted s1 e (ueLines v) len h
    | (s1, .ok _) =>
      if badTbl || strBad c1 (curdPort op) then s.halted s1 e (ueLines v) len bad
      else .next (s1.modEng e fun g => { g with
        str := some (run true), seen := s1.modeAt e,
        cr := { (c1.strStart (curdPort op)) with
          osp := BitVec.ofNat 32 (c.oslo.toNat + 12 * (d - k)),
          lc := if rep then BitVec.ofNat 32 count else c.lc } })

/-- ILEN of an entry whose instruction has no known length: open (R375, log 4). -/
def State.ilenOpen (s : State) : Nat := 1 + Config.freeNat s.fresh % 5

/-- The operand bytes' first byte after a rep's opcode byte counts toward reserved bits as in the instruction itself:
imm as curdReserved takes it, from the two bytes that follow. -/
def repImm (op m : Nat) : Nat :=
  if op = 0x06 ∨ op = 0x17 then m / 2 ^ 8
  else if 0x20 ≤ op ∧ op ≤ 0x2C then m / 2 ^ 8 * 2 ^ 16
  else m

/-- A Curd instruction whose bytes have been fetched, from its operand checks on (R209 in order). -/
def State.curdRun (s0 s : State) (e : Nat) (v : Env) (op imm : Nat) (rep : Bool) : Answer :=
  let g := s.eng e
  let len := (curdLen op).getD 1 + rep.toNat
  if curdReserved op (if rep then repImm op imm else imm) then
    s0.halted s e (ueLines v) len (.exc { cls := xReserved, faddr := op })
  else if rep && (!isStr (curdPort op) || g.cr.esw.la) then
    s0.halted s e (ueLines v) len (.exc { cls := xRepeat, faddr := op })
  else if isStr (curdPort op) then s.curdStr e v op imm len rep
  else
    let d := g.cr.depth
    s.curdExec e v (.curd (BitVec.ofNat 8 op) (BitVec.ofNat 32 imm) rep) len (curdPops op imm) (curdPushes op imm)
      (decide (op = 0x06) && decide (d < imm % 16 + 1)) fun s l => s.curdBody e v op imm len d l

/-- The bytes that a Curd command names: the repeat prefix, the opcode and its operand bytes (R208), of a repeated
instruction the first two operand bytes at most. -/
def curdBytes (op imm : Nat) (rep : Bool) : List Byte :=
  let n := (curdLen op).getD 1 - 1
  (if rep then [0xF0] else []) ++ BitVec.ofNat 8 op :: (if rep then (toBytes 2 imm).take n else toBytes n imm)

/-- A Curd instruction from its fetch on (R209 in order); a machine check that the fetch's walk has raised comes first
(R372). One that is not the one the engine fetches is no command (R342,
log 12). -/
def State.curdGo (s : State) (e : Nat) (v : Env) (op imm : Nat) (rep : Bool) : Answer :=
  let pc := (s.eng e).pc.toNat
  let len := (curdLen op).getD 1 + rep.toNat
  let want := curdBytes op imm rep
  match s.fetchAt e (ueLines v) pc (1 + rep.toNat) with
  | (s1, .error h) => s.halted s1.draw e (ueLines v) s1.ilenOpen h
  | (s1, .ok l) =>
    if l ≠ want.take (1 + rep.toNat) then .refused .notThisCommand
    else match curdLen op with
    | none => s.halted s1.draw e (ueLines v) s1.ilenOpen (.exc { cls := xOpcode, faddr := op })
    | some _ => match s1.fetchAt e (ueLines v) pc len with
      | (s2, .error h) => s.halted s2 e (ueLines v) len h
      | (s2, .ok l) =>
        if !want.isPrefixOf l then .refused .notThisCommand
        else match (s2.eng e).amc with
        | some va => .next ((s2.longDone e).mcheck e (ueLines v) va len)
        | none => s.curdRun s2 e v op imm rep

/-- A Curd instruction executes (R207 to R231): machine checks first, and the report of a condition that supervisor code
raised outside a transaction before it gave user code the engine (R372), once a divide that may add to it has decided (R384).
User code raises none, and rolls nothing back (R222). An engine that does not execute Curd takes none. -/
def State.curd (s : State) (e : Nat) (v : Env) (op imm : Nat) (rep : Bool) : Answer :=
  let g := s.eng e
  if !g.ready || g.cr.esw.priv then .next s
  else if v.parity = some 5 then .next (s.stopEng e { exc := { cls := xMcheck, sub := 5 } } 0)
  else
    let s := s.corrected (ceLines v)
    let ilen := (curdLen op).getD 1 + rep.toNat
    match g.amc, g.imp with
    | some va, _ => .next ((s.longDone e).mcheck e (ueLines v) va ilen)
    | none, some i => if g.owes then .next s else .next (s.enterReport e (ueLines v) i ilen)
    | none, none => s.curdGo e v op imm rep

/-- The length of the Curd instruction at the saved program address, for an entry at a boundary (R375): read as it would
be fetched, open where it cannot be. -/
def State.curdIlen (s : State) (e : Nat) : Nat :=
  let g := s.eng e
  let byte (off : Nat) : Option Nat := match s.fetchAt e [] (off % 2 ^ 32) 1 with
    | (_, .ok l) => some (ofBytes l)
    | _ => none
  if g.cr.esw.priv then 0
  else match byte g.pc.toNat with
    | none => s.ilenOpen
    | some 0xF0 => match (byte (g.pc.toNat + 1)).bind curdLen with
      | some n => n + 1
      | none => s.ilenOpen
    | some op => (curdLen op).getD s.ilenOpen

/-! ### The opcode rows -/

/-- NOP (R216). -/
def execNop (e : EngId) (v : Env) (s : State) : Answer := s.curd e.val v 0x00 0 false

/-- DROP (R216). -/
def execDrop (e : EngId) (v : Env) (s : State) : Answer := s.curd e.val v 0x01 0 false

/-- DUP (R216). -/
def execDup (e : EngId) (v : Env) (s : State) : Answer := s.curd e.val v 0x02 0 false

/-- SWAP (R216). -/
def execSwap (e : EngId) (v : Env) (s : State) : Answer := s.curd e.val v 0x03 0 false

/-- OVER (R216). -/
def execOver (e : EngId) (v : Env) (s : State) : Answer := s.curd e.val v 0x04 0 false

/-- ROT (R216). -/
def execRot (e : EngId) (v : Env) (s : State) : Answer := s.curd e.val v 0x05 0 false

/-- PICK (R216). -/
def execPick (e : EngId) (i : Byte) (v : Env) (s : State) : Answer :=
  s.curd e.val v 0x06 i.toNat false

/-- DEPTH (R216). -/
def execDepth (e : EngId) (v : Env) (s : State) : Answer := s.curd e.val v 0x07 0 false

/-- PUSH_B8 (R216). -/
def execPushB8 (e : EngId) (i : Byte) (v : Env) (s : State) : Answer :=
  s.curd e.val v 0x10 i.toNat false

/-- PUSH_B32 (R216). -/
def execPushB32 (e : EngId) (i : BitVec 32) (v : Env) (s : State) : Answer :=
  s.curd e.val v 0x11 i.toNat false

/-- PUSH_D (R216). -/
def execPushD (e : EngId) (i : BitVec 32) (v : Env) (s : State) : Answer :=
  s.curd e.val v 0x12 i.toNat false

/-- LIT (R216). -/
def execLit (e : EngId) (i : BitVec 16) (v : Env) (s : State) : Answer :=
  s.curd e.val v 0x13 i.toNat false

/-- MKVA (R216). -/
def execMkva (e : EngId) (i : Byte) (v : Env) (s : State) : Answer :=
  s.curd e.val v 0x17 i.toNat false

/-- LDB (R216). -/
def execLdb (e : EngId) (k : Byte) (i : BitVec 16) (v : Env) (s : State) : Answer :=
  s.curd e.val v 0x20 (k.toNat * 2 ^ 16 + i.toNat) false

/-- LDH (R216). -/
def execLdh (e : EngId) (k : Byte) (i : BitVec 16) (v : Env) (s : State) : Answer :=
  s.curd e.val v 0x21 (k.toNat * 2 ^ 16 + i.toNat) false

/-- LDW (R216). -/
def execLdw (e : EngId) (k : Byte) (i : BitVec 16) (v : Env) (s : State) : Answer :=
  s.curd e.val v 0x22 (k.toNat * 2 ^ 16 + i.toNat) false

/-- LDD (R216). -/
def execLdd (e : EngId) (k : Byte) (i : BitVec 16) (v : Env) (s : State) : Answer :=
  s.curd e.val v 0x23 (k.toNat * 2 ^ 16 + i.toNat) false

/-- LDT (R216). -/
def execLdt (e : EngId) (k : Byte) (i : BitVec 16) (v : Env) (s : State) : Answer :=
  s.curd e.val v 0x24 (k.toNat * 2 ^ 16 + i.toNat) false

/-- STB (R216). -/
def execStb (e : EngId) (k : Byte) (i : BitVec 16) (v : Env) (s : State) : Answer :=
  s.curd e.val v 0x28 (k.toNat * 2 ^ 16 + i.toNat) false

/-- STH (R216). -/
def execSth (e : EngId) (k : Byte) (i : BitVec 16) (v : Env) (s : State) : Answer :=
  s.curd e.val v 0x29 (k.toNat * 2 ^ 16 + i.toNat) false

/-- STW (R216). -/
def execStw (e : EngId) (k : Byte) (i : BitVec 16) (v : Env) (s : State) : Answer :=
  s.curd e.val v 0x2A (k.toNat * 2 ^ 16 + i.toNat) false

/-- STD (R216). -/
def execStd (e : EngId) (k : Byte) (i : BitVec 16) (v : Env) (s : State) : Answer :=
  s.curd e.val v 0x2B (k.toNat * 2 ^ 16 + i.toNat) false

/-- STT (R216). -/
def execStt (e : EngId) (k : Byte) (i : BitVec 16) (v : Env) (s : State) : Answer :=
  s.curd e.val v 0x2C (k.toNat * 2 ^ 16 + i.toNat) false

/-- LDL (R216). -/
def execLdl (e : EngId) (i : Byte) (v : Env) (s : State) : Answer :=
  s.curd e.val v 0x2D i.toNat false

/-- STL (R216). -/
def execStl (e : EngId) (i : Byte) (v : Env) (s : State) : Answer :=
  s.curd e.val v 0x2E i.toNat false

/-- SPADJ (R216). -/
def execSpadj (e : EngId) (i : Byte) (v : Env) (s : State) : Answer :=
  s.curd e.val v 0x2F i.toNat false

/-- ADD (R216, R187). -/
def execAdd (e : EngId) (v : Env) (s : State) : Answer := s.curd e.val v 0x30 0 false

/-- SUB (R216, R187). -/
def execSub (e : EngId) (v : Env) (s : State) : Answer := s.curd e.val v 0x31 0 false

/-- AND (R216, R187). -/
def execAnd (e : EngId) (v : Env) (s : State) : Answer := s.curd e.val v 0x32 0 false

/-- OR (R216, R187). -/
def execOr (e : EngId) (v : Env) (s : State) : Answer := s.curd e.val v 0x33 0 false

/-- XOR (R216, R187). -/
def execXor (e : EngId) (v : Env) (s : State) : Answer := s.curd e.val v 0x34 0 false

/-- SHL (R216, R187). -/
def execShl (e : EngId) (v : Env) (s : State) : Answer := s.curd e.val v 0x35 0 false

/-- SHR (R216, R187). -/
def execShr (e : EngId) (v : Env) (s : State) : Answer := s.curd e.val v 0x36 0 false

/-- SAR (R216, R187). -/
def execSar (e : EngId) (v : Env) (s : State) : Answer := s.curd e.val v 0x37 0 false

/-- MUL (R216, R187). -/
def execMul (e : EngId) (v : Env) (s : State) : Answer := s.curd e.val v 0x38 0 false

/-- CEQ (R216, R187). -/
def execCeq (e : EngId) (v : Env) (s : State) : Answer := s.curd e.val v 0x39 0 false

/-- CLT (R216, R187). -/
def execClt (e : EngId) (v : Env) (s : State) : Answer := s.curd e.val v 0x3A 0 false

/-- CLTU (R216, R187). -/
def execCltu (e : EngId) (v : Env) (s : State) : Answer := s.curd e.val v 0x3B 0 false

/-- DADD (R216, R241). -/
def execDadd (e : EngId) (m : BitVec 16) (v : Env) (s : State) : Answer :=
  s.curd e.val v 0x40 m.toNat false

/-- DSUB (R216, R241). -/
def execDsub (e : EngId) (m : BitVec 16) (v : Env) (s : State) : Answer :=
  s.curd e.val v 0x41 m.toNat false

/-- DCMP (R216, R241). -/
def execDcmp (e : EngId) (m : BitVec 16) (v : Env) (s : State) : Answer :=
  s.curd e.val v 0x42 m.toNat false

/-- DSRND (R216, R241). -/
def execDsrnd (e : EngId) (m : BitVec 16) (v : Env) (s : State) : Answer :=
  s.curd e.val v 0x43 m.toNat false

/-- DNEG (R216, R241). -/
def execDneg (e : EngId) (m : BitVec 16) (v : Env) (s : State) : Answer :=
  s.curd e.val v 0x44 m.toNat false

/-- DABS (R216, R241). -/
def execDabs (e : EngId) (m : BitVec 16) (v : Env) (s : State) : Answer :=
  s.curd e.val v 0x45 m.toNat false

/-- DTEST (R216, R241). -/
def execDtest (e : EngId) (m : BitVec 16) (v : Env) (s : State) : Answer :=
  s.curd e.val v 0x46 m.toNat false

/-- DMUL (R216, R243). -/
def execDmul (e : EngId) (m : BitVec 16) (v : Env) (s : State) : Answer :=
  s.curd e.val v 0x48 m.toNat false

/-- DMULL (R216, R243). -/
def execDmull (e : EngId) (m : BitVec 16) (v : Env) (s : State) : Answer :=
  s.curd e.val v 0x49 m.toNat false

/-- DDIV (R222, R244). -/
def execDdiv (e : EngId) (m : BitVec 16) (v : Env) (s : State) : Answer :=
  s.curd e.val v 0x4A m.toNat false

/-- DDIVQ (R222, R244). -/
def execDdivq (e : EngId) (m : BitVec 16) (v : Env) (s : State) : Answer :=
  s.curd e.val v 0x4B m.toNat false

/-- B2D (R216, R247). -/
def execB2d (e : EngId) (m : BitVec 16) (v : Env) (s : State) : Answer :=
  s.curd e.val v 0x50 m.toNat false

/-- D2B (R216, R247). -/
def execD2b (e : EngId) (m : BitVec 16) (v : Env) (s : State) : Answer :=
  s.curd e.val v 0x51 m.toNat false

/-- T2F (R216, R247). -/
def execT2f (e : EngId) (m : BitVec 16) (v : Env) (s : State) : Answer :=
  s.curd e.val v 0x52 m.toNat false

/-- F2T (R216, R247). -/
def execF2t (e : EngId) (m : BitVec 16) (v : Env) (s : State) : Answer :=
  s.curd e.val v 0x53 m.toNat false

/-- PACK (R228, R249). -/
def execPack (e : EngId) (m : BitVec 16) (v : Env) (s : State) : Answer :=
  s.curd e.val v 0x54 m.toNat false

/-- UNPK (R228, R249). -/
def execUnpk (e : EngId) (m : BitVec 16) (v : Env) (s : State) : Answer :=
  s.curd e.val v 0x55 m.toNat false

/-- MDEC (R228, R249). -/
def execMdec (e : EngId) (m : BitVec 16) (v : Env) (s : State) : Answer :=
  s.curd e.val v 0x56 m.toNat false

/-- BR8 (R223). -/
def execBr8 (e : EngId) (i : Byte) (v : Env) (s : State) : Answer :=
  s.curd e.val v 0x60 i.toNat false

/-- BR (R223). -/
def execBr (e : EngId) (i : BitVec 16) (v : Env) (s : State) : Answer :=
  s.curd e.val v 0x61 i.toNat false

/-- BZ (R223). -/
def execBz (e : EngId) (i : BitVec 16) (v : Env) (s : State) : Answer :=
  s.curd e.val v 0x62 i.toNat false

/-- BNZ (R223). -/
def execBnz (e : EngId) (i : BitVec 16) (v : Env) (s : State) : Answer :=
  s.curd e.val v 0x63 i.toNat false

/-- CALL (R224). -/
def execCall (e : EngId) (i : BitVec 16) (v : Env) (s : State) : Answer :=
  s.curd e.val v 0x64 i.toNat false

/-- CALLF (R224). -/
def execCallf (e : EngId) (v : Env) (s : State) : Answer := s.curd e.val v 0x65 0 false

/-- RET (R224). -/
def execRet (e : EngId) (v : Env) (s : State) : Answer := s.curd e.val v 0x66 0 false

/-- JMPF (R223). -/
def execJmpf (e : EngId) (v : Env) (s : State) : Answer := s.curd e.val v 0x67 0 false

/-- CALLK (R225). -/
def execCallk (e : EngId) (i : Byte) (v : Env) (s : State) : Answer :=
  s.curd e.val v 0x68 i.toNat false

/-- RDRND (R216). -/
def execRdrnd (e : EngId) (v : Env) (s : State) : Answer := s.curd e.val v 0x70 0 false

/-- WDRND (R216). -/
def execWdrnd (e : EngId) (v : Env) (s : State) : Answer := s.curd e.val v 0x71 0 false

/-- RDFRND (R216). -/
def execRdfrnd (e : EngId) (v : Env) (s : State) : Answer := s.curd e.val v 0x72 0 false

/-- WDFRND (R216). -/
def execWdfrnd (e : EngId) (v : Env) (s : State) : Answer := s.curd e.val v 0x73 0 false

/-- RDFLAG (R216). -/
def execRdflag (e : EngId) (v : Env) (s : State) : Answer := s.curd e.val v 0x74 0 false

/-- CLRFLAG (R216). -/
def execClrflag (e : EngId) (v : Env) (s : State) : Answer := s.curd e.val v 0x75 0 false

/-- TURN (R216). -/
def execTurn (e : EngId) (v : Env) (s : State) : Answer := s.curd e.val v 0x76 0 false

/-- DFADD (R220). -/
def execDfadd (e : EngId) (m : BitVec 16) (v : Env) (s : State) : Answer :=
  s.curd e.val v 0x80 m.toNat false

/-- DFSUB (R220). -/
def execDfsub (e : EngId) (m : BitVec 16) (v : Env) (s : State) : Answer :=
  s.curd e.val v 0x81 m.toNat false

/-- DFMUL (R220). -/
def execDfmul (e : EngId) (m : BitVec 16) (v : Env) (s : State) : Answer :=
  s.curd e.val v 0x82 m.toNat false

/-- DFDIV (R220). -/
def execDfdiv (e : EngId) (m : BitVec 16) (v : Env) (s : State) : Answer :=
  s.curd e.val v 0x83 m.toNat false

/-- DFFMA (R220). -/
def execDffma (e : EngId) (m : BitVec 16) (v : Env) (s : State) : Answer :=
  s.curd e.val v 0x84 m.toNat false

/-- DFCMP (R220). -/
def execDfcmp (e : EngId) (m : BitVec 16) (v : Env) (s : State) : Answer :=
  s.curd e.val v 0x85 m.toNat false

/-- DFCMPS (R220). -/
def execDfcmps (e : EngId) (m : BitVec 16) (v : Env) (s : State) : Answer :=
  s.curd e.val v 0x86 m.toNat false

/-- DFQUANT (R220). -/
def execDfquant (e : EngId) (m : BitVec 16) (v : Env) (s : State) : Answer :=
  s.curd e.val v 0x87 m.toNat false

/-- DFRINT (R220). -/
def execDfrint (e : EngId) (m : BitVec 16) (v : Env) (s : State) : Answer :=
  s.curd e.val v 0x88 m.toNat false

/-- DFSCALEB (R220). -/
def execDfscaleb (e : EngId) (m : BitVec 16) (v : Env) (s : State) : Answer :=
  s.curd e.val v 0x89 m.toNat false

/-- DFMIN (R220). -/
def execDfmin (e : EngId) (m : BitVec 16) (v : Env) (s : State) : Answer :=
  s.curd e.val v 0x8A m.toNat false

/-- DFMAX (R220). -/
def execDfmax (e : EngId) (m : BitVec 16) (v : Env) (s : State) : Answer :=
  s.curd e.val v 0x8B m.toNat false

/-- DFWIDEN (R220). -/
def execDfwiden (e : EngId) (m : BitVec 16) (v : Env) (s : State) : Answer :=
  s.curd e.val v 0x8C m.toNat false

/-- DFNARROW (R220). -/
def execDfnarrow (e : EngId) (m : BitVec 16) (v : Env) (s : State) : Answer :=
  s.curd e.val v 0x8D m.toNat false

/-- GS1 (R216, R250). -/
def execGs1 (e : EngId) (m : BitVec 16) (v : Env) (s : State) : Answer :=
  s.curd e.val v 0x90 m.toNat false

/-- LUHN (R216, R250). -/
def execLuhn (e : EngId) (m : BitVec 16) (v : Env) (s : State) : Answer :=
  s.curd e.val v 0x91 m.toNat false

/-- M97 (R216, R250). -/
def execM97 (e : EngId) (m : BitVec 16) (v : Env) (s : State) : Answer :=
  s.curd e.val v 0x92 m.toNat false

/-- MOVE (R228, R285). -/
def execMove (e : EngId) (m : BitVec 16) (v : Env) (s : State) : Answer :=
  s.curd e.val v 0xA0 m.toNat false

/-- SCMP (R228, R285). -/
def execScmp (e : EngId) (m : BitVec 16) (v : Env) (s : State) : Answer :=
  s.curd e.val v 0xA1 m.toNat false

/-- SCAN (R228, R285). -/
def execScan (e : EngId) (m : BitVec 16) (v : Env) (s : State) : Answer :=
  s.curd e.val v 0xA2 m.toNat false

/-- XLAT (R228, R285). -/
def execXlat (e : EngId) (m : BitVec 16) (v : Env) (s : State) : Answer :=
  s.curd e.val v 0xA3 m.toNat false

/-- FILL (R228, R285). -/
def execFill (e : EngId) (m : BitVec 16) (v : Env) (s : State) : Answer :=
  s.curd e.val v 0xA4 m.toNat false

/-- EDIT (R228, R297). -/
def execEdit (e : EngId) (m : BitVec 16) (v : Env) (s : State) : Answer :=
  s.curd e.val v 0xA8 m.toNat false

/-- REP (R230, R231): the pair of a rep and the instruction whose opcode and first operand bytes follow it. -/
def execRep (e : EngId) (op : Byte) (m : BitVec 16) (v : Env) (s : State) : Answer :=
  s.curd e.val v op.toNat m.toNat true

/-- ILLEGAL_OPCODE (R217): an opcode byte that the table does not list. -/
def execIllegalOpcode (e : EngId) (op : Byte) (v : Env) (s : State) : Answer :=
  if (curdLen op.toNat).isNone then s.curd e.val v op.toNat 0 false else .refused .notThisCommand

end Sys2Proof.Machine
end

