-- ==== Sys2Proof/Machine/Engine.lean ====
section
/-! DEFINITION. What happens on an engine beside the issue of instructions: string iterations, divides that complete,
interrupts, store errors, the bundle limit, the tick timer, the store buffer, loads that complete, and engine reset and
start. -/

namespace Sys2Proof.Machine

/-! ### String iterations (R287 to R292, R229, R230, R301) -/

/-- Bytes of the Curd instruction a string operation belongs to, its rep included; 0 in Rind (R375). -/
def Insn.ilen : Insn → Nat
  | .rind _ => 0
  | .curd op _ rep => (curdLen op.toNat).getD 1 + rep.toNat

/-- The FADDR that the operation's own exceptions carry (R375). -/
def StrRun.faddr (r : StrRun) : Nat :=
  match r.insn with
  | .rind b => slotPort (((slotsOf b).find? fun p => p.2.dst = r.port.toNat).elim 3 Prod.fst) r.port.toNat
  | .curd op _ _ => op.toNat

/-- The slot of its bundle that triggered the operation; 3 in Curd. -/
def StrRun.slot (r : StrRun) : Nat :=
  match r.insn with
  | .rind b => ((slotsOf b).find? fun p => p.2.dst = r.port.toNat).elim 3 Prod.fst
  | .curd _ _ _ => 3

/-- The instruction of a completed pass ends: IP 0, the result, and the bundle or instruction retires (R291, R301,
R229). A Curd instruction that resumed spills what its push sends to memory; one that popped its operands in this issue fills
after its own stores, down to the depth that it leaves (R213, R214). -/
def State.strFinish (s : State) (e : Nat) (v : Env) (run : StrRun) (r : Tally) (pv : Bool) :
    State × Except Halt State :=
  let p := run.port.toNat
  let op := run.opmod.toNat
  let s := s.modEng e fun g => { g with cr := { g.cr with saux := setBit g.cr.saux 63 false } }
  match run.insn with
  | .rind b => s.strRetire e v b (movesOf b run.vals) p op r pv
  | .curd _ _ _ =>
    let d := (s.eng e).cr.depth
    match State.checkSlots e (ueLines v) .store (if run.popped then [] else spillsOf d (d + 1)) s with
    | (s1, .error h) => (s1, .error h)
    | (s1, .ok sp) => match State.checkSlots e (ueLines v) .load (if run.popped then fillsOf run.deep (d + 1) else []) s1 with
      | (s1, .error h) => (s1, .error h)
      | (s1, .ok fl) => match State.spill e (s1.eng e).t sp s1 with
        | .error h => (s1, .error h)
        | .ok s2 => match State.fillRegs e fl s2 with
          | .error h => (s1, .error h)
          | .ok s2 => (s1, .ok (s2.modEng e fun g =>
              let g := ((g.strResult p op r pv).push d [r]).countUp
              { g with str := none, pc := g.pc + BitVec.ofNat 32 run.insn.ilen }))

/-- The stack and string state as they were before a pack, unpk or mdec whose own decimal exception is entered (R222); in a
rep only before its first repetition has ended (log 16). -/
def State.unpop (s : State) (e : Nat) (run : StrRun) (x : Exc) : State :=
  match run.back with
  | some (t, c) => if x.cls = 0x16 || x.cls = 0x17 then
      s.modEng e fun g => { g with t := t, cr := { g.cr with
        osp := c.osp, ssrc := c.ssrc, sdst := c.sdst, scnt := c.scnt, saux := c.saux, lc := c.lc } }
    else s
  | none => s

/-- A Halt at an iteration (R290, R292): s0 the boundary it began at. What is due at the boundary comes first, in a delay
bundle too: a machine check, a report, an interrupt; in Prime, Recovery and Test-Open only a report (R372, R385, R392). -/
def State.strHalted (s0 s : State) (e : Nat) (v : Env) (run : StrRun) (h : Halt) : Answer :=
  let ilen := run.insn.ilen
  match h with
  | .exc x =>
    let here := s.serviceMode e
    let u := s.longDone e
    match (if here then (s.eng e).amc else none), (u.eng e).imp, (if here then s.irqReq e else none) with
    | some va, _, _ => .next (s.mcheck e (ueLines v) va ilen)
    | none, some i, _ => .next (State.reportDue s0 u e (ueLines v) i)
    | none, none, some c => .next (s.enter e (ueLines v) { exc := { cls := c }, ilen := ilen })
    | none, none, none => .next ((u.unpop e run x).raise e (ueLines v) x ilen)
  | _ => s0.halted s e (ueLines v) ilen h

/-- What an iteration leads to once it has run (R79, R230, R291, R301): s0 the boundary it began at, s the state with its
bytes and string state, o the result when the pass is complete. -/
def State.strNext (s0 s : State) (e : Nat) (v : Env) (run : StrRun) (o : Option (Tally × Bool)) : Answer :=
  match o with
  | none => .next s
  | some (r, pv) =>
    let lc := (s.eng e).cr.lc - 1
    let finish (s : State) : Answer :=
      if (s.eng e).atLimit then .next s
      else match s.strFinish e v run r pv with
        | (s2, .error h) => s0.strHalted (s0.keepMicro s2 e) e v run h
        | (_, .ok s2) => .next s2
    match run.insn with
    | .curd _ _ true =>
      let s := s.modEng e fun g => { g with cr := { g.cr with lc := lc } }
      if lc ≠ 0 then .next (s.modEng e fun g => { g with str := some { run with
        back := none, micro := { at_ := rnEntry run.port.toNat run.opmod.toNat true } } })
      else finish s
    | _ => finish s

/-- STRING_ITERATION (R287): one iteration of the string operation in progress, under the microwords that Rennet reads for
it. A word that fails stops the engine, and bytes that the iteration's words had written stay (R416); free conditions of theirs are drawn anew for each iteration. An asynchronous machine check is entered at the boundary in the Service modes (R292, R395). -/
def execStringIteration (e : EngId) (v : Env) (s : State) : Answer :=
  let g := s.eng e.val
  match g.str with
  | none => .next s
  | some run =>
    let s := s.corrected (ceLines v)
    let p := run.port.toNat
    let op := run.opmod.toNat
    let sd := if g.rn.live then s.draw else s
    if g.atLimit then .next s
    else match s.rnIter e.val v run, g.amc, s.serviceMode e.val with
    | .fail sub ea n, _, _ =>
      let s1 := s.partIter e.val (ueLines v) p op n
      .next ({ s1 with fresh := s.fresh + 2 }.microStop e.val sub p ea)
    | _, some va, true => .next (s.mcheck e.val (ueLines v) va run.insn.ilen)
    | o, _, _ =>
      let idle := decide (0x310 ≤ p) && decide (p ≤ 0x314) && decide (g.cr.scnt = 0)
      match sd.strIter e.val run.slot run.faddr (ueLines v) p op with
      | (s1, .error h) => s.strHalted s1 e.val v run h
      | (_, .ok (s1, r)) =>
        let run := { run with micro := o.micro p op }
        let s1 := s1.modEng e.val fun g => { (o.acts g) with str := some run }
        s.strNext (if idle then s1 else s1.modEng e.val Eng.countUp) e.val v run (o.result s.fresh r)

/-! ### Divides -/

/-- DD_DIV_COMPLETE (R245): the busy decimal divide delivers its result or its condition. -/
def execDdDivComplete (e : EngId) (_ : Env) (s : State) : Answer := .next (s.ddDone e.val)

/-- DF_DIV_COMPLETE (R278): the busy DF divide delivers its result and flags; a microword that fails stops the engine
(R416). -/
def execDfDivComplete (e : EngId) (v : Env) (s : State) : Answer :=
  match (s.eng e.val).df with
  | none => .next s
  | some d => match s.rnFault e.val v 0x2B3 d.opmod.toNat with
    | some (sub, ea) => .next (s.draw.microStop e.val sub 0x2B3 ea)
    | none => .next (s.dfDone e.val)

/-! ### Interrupts and machine checks at a boundary -/

/-- Whether the engine stands at a boundary at which R392 allows an interrupt: between bundles or instructions, at an
iteration boundary in the Service modes, or waiting in PX. -/
def State.atBoundary (s : State) (e : Nat) : Bool :=
  let g := s.eng e
  decide (g.mode = .running) && g.missing.isNone && !g.atLimit &&
    (if g.str.isSome then s.serviceMode e else !g.cr.esw.bp)

/-- INTERRUPT_ENTRY (R391): at a boundary, a machine check due, else a pending report, else the interrupt (R372, R385). In
Prime, Recovery and Test-Open busy divides complete first (R379); elsewhere an entry waits for the report that a divide
still to decide may owe (R384). -/
def execInterruptEntry (e : EngId) (s : State) : Answer :=
  let g := s.eng e.val
  let ilen := match g.str with
    | some r => r.insn.ilen
    | none => s.curdIlen e.val
  if !s.atBoundary e.val then .next s
  else match g.amc, s.irqReq e.val with
  | none, none => .next s
  | amc, irq =>
    let s1 := s.longDone e.val
    match amc, (s1.eng e.val).imp with
    | some va, _ => .next (s1.draw.mcheck e.val [] va ilen)
    | none, some i => .next (State.reportDue s s1 e.val [] i)
    | none, none => .next (s1.draw.enter e.val [] { exc := { cls := irq.getD 0x20 }, ilen := ilen })

/-- STORE_WRITE_ERROR (R394): the oldest store-buffer entry meets an uncorrectable error: it is not written, the error is
recorded (R529), and the asynchronous machine check becomes pending. -/
def execStoreWriteError (e : EngId) (s : State) : Answer :=
  match (s.eng e.val).mem.sbuf with
  | [] => .next s
  | x :: rest =>
    let s1 := s.modEng e.val fun g => { g with mem := { g.mem with sbuf := rest } }
    .next ((s1.ueRecord x.pa 0 false).modEng e.val fun g => { g with amc := some x.va })

/-! ### Limits and timers -/

/-- BUNDLE_LIMIT (R79): an attempt whose bundle count has reached 2^BLIMIT ends with LIMIT. -/
def execBundleLimit (e : EngId) (s : State) : Answer :=
  if (s.eng e.val).atLimit then .next (s.seal e.val 3 []) else .next s

/-- TKCMP advanced by a number of ticks, carrying into TURN (R66). -/
def tickAdd (cmp : W64) (per : Nat) : W64 := cmp + BitVec.ofNat 64 per

/-- TICK_TIMER_EXPIRY (R67): an armed timer whose compare value the time that its engine observes (R53) has reached sets
PEND, and a periodic one moves its compare value on. -/
def execTickTimerExpiry (e : EngId) (s : State) : Answer :=
  let c := (s.eng e.val).cr
  let per := fld c.tkctl 19 4
  let now := s.rxNow (vatOf e.val)
  if decide ((s.eng e.val).mode = .running) && bit c.tkctl 0 &&
      decide (c.tkcmp.toNat ≤ now.1 * 2 ^ 16 + now.2) then
    .next (s.modEng e.val fun g => { g with cr := { g.cr with
      tkctl := setBit g.cr.tkctl 1 true
      tkcmp := if per = 0 then g.cr.tkcmp else tickAdd g.cr.tkcmp per } })
  else .next s

/-! ### Memory side -/

/-- STORE_BUFFER_WRITE (R354): the oldest entry is written into the vat store. -/
def execStoreBufferWrite (e : EngId) (s : State) : Answer := .next (s.sbWrite e.val)

/-- What parts of a split load read as it issued serves that load alone (R360). -/
def State.loadEnds (s : State) (e : Nat) : State :=
  s.modEng e fun g => if g.missing.isNone then { g with mem := { g.mem with early := [] } } else g

/-- LOAD_COMPLETE (R355): the data of a load that waited arrives; when no other load of its bundle or instruction waits,
it executes. -/
def execLoadComplete (e : EngId) (port : Fin 2) (v : Env) (s : State) : Answer :=
  match (s.eng e.val).missing with
  | none => .next s
  | some (insn, ports) =>
    let rest := ports.filter fun p => p ≠ port.val
    if !rest.isEmpty then .next (s.modEng e.val fun g => { g with missing := some (insn, rest) })
    else
      let s := (s.corrected (ceLines v)).modEng e.val fun g => { g with missing := none }
      let v := { v with miss := false }
      match (match insn with
        | .rind b => s.runBundle e.val b v
        | .curd op imm rep => s.curdRun s e.val v op.toNat imm.toNat rep) with
      | .next t => .next (t.loadEnds e.val)
      | o => o

/-! ### Reset and start (R574) -/

/-- ENGINE_RESET (R574): an engine whose ENG_CTL.HOLD is 1 enters engine reset once its store buffer is written. -/
def execEngineReset (e : EngId) (s : State) : Answer :=
  let g := s.eng e.val
  if g.hold && decide (g.mode = .running) then
    .next ((s.resetEng e.val).modEng e.val fun g => { g with mode := .held, drain := false })
  else .next s

/-- ENGINE_START (R574): an engine held with ENG_CTL.HOLD at 0 leaves engine reset at the Start slot. -/
def execEngineStart (e : EngId) (s : State) : Answer :=
  let g := s.eng e.val
  if !g.hold && decide (g.mode = .held) then .next (s.startEng e.val) else .next s

end Sys2Proof.Machine
end

