-- ==== Sys2Proof/Machine/Dispatch.lean ====
section
/-! DEFINITION. One arm for each command of spec/opcode_table.json. -/

namespace Sys2Proof.Machine

def exec (i : Instr) (s : State) : Host.Outcome State Fault Refusal :=
  match i with
  | .bundleMove e b v => Sys2Proof.Machine.execBundleMove e b v s
  | .crWrite e b v => Sys2Proof.Machine.execCrWrite e b v s
  | .aluAdd e b v => Sys2Proof.Machine.execAluAdd e b v s
  | .aluSub e b v => Sys2Proof.Machine.execAluSub e b v s
  | .aluAnd e b v => Sys2Proof.Machine.execAluAnd e b v s
  | .aluOr e b v => Sys2Proof.Machine.execAluOr e b v s
  | .aluXor e b v => Sys2Proof.Machine.execAluXor e b v s
  | .aluShl e b v => Sys2Proof.Machine.execAluShl e b v s
  | .aluShr e b v => Sys2Proof.Machine.execAluShr e b v s
  | .aluSar e b v => Sys2Proof.Machine.execAluSar e b v s
  | .aluMul e b v => Sys2Proof.Machine.execAluMul e b v s
  | .aluCeq e b v => Sys2Proof.Machine.execAluCeq e b v s
  | .aluClt e b v => Sys2Proof.Machine.execAluClt e b v s
  | .aluCltu e b v => Sys2Proof.Machine.execAluCltu e b v s
  | .daAdd e b v => Sys2Proof.Machine.execDaAdd e b v s
  | .daSub e b v => Sys2Proof.Machine.execDaSub e b v s
  | .daCmp e b v => Sys2Proof.Machine.execDaCmp e b v s
  | .daSrnd e b v => Sys2Proof.Machine.execDaSrnd e b v s
  | .daNeg e b v => Sys2Proof.Machine.execDaNeg e b v s
  | .daAbs e b v => Sys2Proof.Machine.execDaAbs e b v s
  | .daTest e b v => Sys2Proof.Machine.execDaTest e b v s
  | .dmMul e b v => Sys2Proof.Machine.execDmMul e b v s
  | .ddDiv e b v => Sys2Proof.Machine.execDdDiv e b v s
  | .ddDivComplete e v => Sys2Proof.Machine.execDdDivComplete e v s
  | .dfAdd e b v => Sys2Proof.Machine.execDfAdd e b v s
  | .dfSub e b v => Sys2Proof.Machine.execDfSub e b v s
  | .dfMul e b v => Sys2Proof.Machine.execDfMul e b v s
  | .dfDiv e b v => Sys2Proof.Machine.execDfDiv e b v s
  | .dfDivComplete e v => Sys2Proof.Machine.execDfDivComplete e v s
  | .dfFma e b v => Sys2Proof.Machine.execDfFma e b v s
  | .dfCmp e b v => Sys2Proof.Machine.execDfCmp e b v s
  | .dfCmps e b v => Sys2Proof.Machine.execDfCmps e b v s
  | .dfQuant e b v => Sys2Proof.Machine.execDfQuant e b v s
  | .dfRint e b v => Sys2Proof.Machine.execDfRint e b v s
  | .dfScaleb e b v => Sys2Proof.Machine.execDfScaleb e b v s
  | .dfMin e b v => Sys2Proof.Machine.execDfMin e b v s
  | .dfMax e b v => Sys2Proof.Machine.execDfMax e b v s
  | .dfWiden e b v => Sys2Proof.Machine.execDfWiden e b v s
  | .dfNarrow e b v => Sys2Proof.Machine.execDfNarrow e b v s
  | .cvB2d e b v => Sys2Proof.Machine.execCvB2d e b v s
  | .cvD2b e b v => Sys2Proof.Machine.execCvD2b e b v s
  | .cvT2f e b v => Sys2Proof.Machine.execCvT2f e b v s
  | .cvF2t e b v => Sys2Proof.Machine.execCvF2t e b v s
  | .cvPack e b v => Sys2Proof.Machine.execCvPack e b v s
  | .cvUnpk e b v => Sys2Proof.Machine.execCvUnpk e b v s
  | .cvMdec e b v => Sys2Proof.Machine.execCvMdec e b v s
  | .ckGs1 e b v => Sys2Proof.Machine.execCkGs1 e b v s
  | .ckLuhn e b v => Sys2Proof.Machine.execCkLuhn e b v s
  | .ckM97 e b v => Sys2Proof.Machine.execCkM97 e b v s
  | .stMove e b v => Sys2Proof.Machine.execStMove e b v s
  | .stCmp e b v => Sys2Proof.Machine.execStCmp e b v s
  | .stScan e b v => Sys2Proof.Machine.execStScan e b v s
  | .stXlat e b v => Sys2Proof.Machine.execStXlat e b v s
  | .stFill e b v => Sys2Proof.Machine.execStFill e b v s
  | .edEdit e b v => Sys2Proof.Machine.execEdEdit e b v s
  | .stringIteration e v => Sys2Proof.Machine.execStringIteration e v s
  | .lsLdb e b v => Sys2Proof.Machine.execLsLdb e b v s
  | .lsLdh e b v => Sys2Proof.Machine.execLsLdh e b v s
  | .lsLdw e b v => Sys2Proof.Machine.execLsLdw e b v s
  | .lsLdd e b v => Sys2Proof.Machine.execLsLdd e b v s
  | .lsLdt e b v => Sys2Proof.Machine.execLsLdt e b v s
  | .lsStb e b v => Sys2Proof.Machine.execLsStb e b v s
  | .lsSth e b v => Sys2Proof.Machine.execLsSth e b v s
  | .lsStw e b v => Sys2Proof.Machine.execLsStw e b v s
  | .lsStd e b v => Sys2Proof.Machine.execLsStd e b v s
  | .lsStt e b v => Sys2Proof.Machine.execLsStt e b v s
  | .brJmp e b v => Sys2Proof.Machine.execBrJmp e b v s
  | .brCall e b v => Sys2Proof.Machine.execBrCall e b v s
  | .brRet e b v => Sys2Proof.Machine.execBrRet e b v s
  | .brJmpf e b v => Sys2Proof.Machine.execBrJmpf e b v s
  | .brCallf e b v => Sys2Proof.Machine.execBrCallf e b v s
  | .brRetx e b v => Sys2Proof.Machine.execBrRetx e b v s
  | .rpLoop e b v => Sys2Proof.Machine.execRpLoop e b v s
  | .pxBegin e b v => Sys2Proof.Machine.execPxBegin e b v s
  | .pxPeek e b v => Sys2Proof.Machine.execPxPeek e b v s
  | .pxSeal e b v => Sys2Proof.Machine.execPxSeal e b v s
  | .pxYield e b v => Sys2Proof.Machine.execPxYield e b v s
  | .sySync e b v => Sys2Proof.Machine.execSySync e b v s
  | .sySyncm e b v => Sys2Proof.Machine.execSySyncm e b v s
  | .syIflush e b v => Sys2Proof.Machine.execSyIflush e b v s
  | .nop e v => Sys2Proof.Machine.execNop e v s
  | .drop e v => Sys2Proof.Machine.execDrop e v s
  | .dup e v => Sys2Proof.Machine.execDup e v s
  | .swap e v => Sys2Proof.Machine.execSwap e v s
  | .over e v => Sys2Proof.Machine.execOver e v s
  | .rot e v => Sys2Proof.Machine.execRot e v s
  | .pick e n v => Sys2Proof.Machine.execPick e n v s
  | .depth e v => Sys2Proof.Machine.execDepth e v s
  | .pushB8 e n v => Sys2Proof.Machine.execPushB8 e n v s
  | .pushB32 e n v => Sys2Proof.Machine.execPushB32 e n v s
  | .pushD e n v => Sys2Proof.Machine.execPushD e n v s
  | .lit e n v => Sys2Proof.Machine.execLit e n v s
  | .mkva e n v => Sys2Proof.Machine.execMkva e n v s
  | .ldb e k n v => Sys2Proof.Machine.execLdb e k n v s
  | .ldh e k n v => Sys2Proof.Machine.execLdh e k n v s
  | .ldw e k n v => Sys2Proof.Machine.execLdw e k n v s
  | .ldd e k n v => Sys2Proof.Machine.execLdd e k n v s
  | .ldt e k n v => Sys2Proof.Machine.execLdt e k n v s
  | .stb e k n v => Sys2Proof.Machine.execStb e k n v s
  | .sth e k n v => Sys2Proof.Machine.execSth e k n v s
  | .stw e k n v => Sys2Proof.Machine.execStw e k n v s
  | .std e k n v => Sys2Proof.Machine.execStd e k n v s
  | .stt e k n v => Sys2Proof.Machine.execStt e k n v s
  | .ldl e n v => Sys2Proof.Machine.execLdl e n v s
  | .stl e n v => Sys2Proof.Machine.execStl e n v s
  | .spadj e n v => Sys2Proof.Machine.execSpadj e n v s
  | .add e v => Sys2Proof.Machine.execAdd e v s
  | .sub e v => Sys2Proof.Machine.execSub e v s
  | .and e v => Sys2Proof.Machine.execAnd e v s
  | .or e v => Sys2Proof.Machine.execOr e v s
  | .xor e v => Sys2Proof.Machine.execXor e v s
  | .shl e v => Sys2Proof.Machine.execShl e v s
  | .shr e v => Sys2Proof.Machine.execShr e v s
  | .sar e v => Sys2Proof.Machine.execSar e v s
  | .mul e v => Sys2Proof.Machine.execMul e v s
  | .ceq e v => Sys2Proof.Machine.execCeq e v s
  | .clt e v => Sys2Proof.Machine.execClt e v s
  | .cltu e v => Sys2Proof.Machine.execCltu e v s
  | .dadd e m v => Sys2Proof.Machine.execDadd e m v s
  | .dsub e m v => Sys2Proof.Machine.execDsub e m v s
  | .dcmp e m v => Sys2Proof.Machine.execDcmp e m v s
  | .dsrnd e m v => Sys2Proof.Machine.execDsrnd e m v s
  | .dneg e m v => Sys2Proof.Machine.execDneg e m v s
  | .dabs e m v => Sys2Proof.Machine.execDabs e m v s
  | .dtest e m v => Sys2Proof.Machine.execDtest e m v s
  | .dmul e m v => Sys2Proof.Machine.execDmul e m v s
  | .dmull e m v => Sys2Proof.Machine.execDmull e m v s
  | .ddiv e m v => Sys2Proof.Machine.execDdiv e m v s
  | .ddivq e m v => Sys2Proof.Machine.execDdivq e m v s
  | .b2d e m v => Sys2Proof.Machine.execB2d e m v s
  | .d2b e m v => Sys2Proof.Machine.execD2b e m v s
  | .t2f e m v => Sys2Proof.Machine.execT2f e m v s
  | .f2t e m v => Sys2Proof.Machine.execF2t e m v s
  | .pack e m v => Sys2Proof.Machine.execPack e m v s
  | .unpk e m v => Sys2Proof.Machine.execUnpk e m v s
  | .mdec e m v => Sys2Proof.Machine.execMdec e m v s
  | .br8 e n v => Sys2Proof.Machine.execBr8 e n v s
  | .br e n v => Sys2Proof.Machine.execBr e n v s
  | .bz e n v => Sys2Proof.Machine.execBz e n v s
  | .bnz e n v => Sys2Proof.Machine.execBnz e n v s
  | .call e n v => Sys2Proof.Machine.execCall e n v s
  | .callf e v => Sys2Proof.Machine.execCallf e v s
  | .ret e v => Sys2Proof.Machine.execRet e v s
  | .jmpf e v => Sys2Proof.Machine.execJmpf e v s
  | .callk e n v => Sys2Proof.Machine.execCallk e n v s
  | .rdrnd e v => Sys2Proof.Machine.execRdrnd e v s
  | .wdrnd e v => Sys2Proof.Machine.execWdrnd e v s
  | .rdfrnd e v => Sys2Proof.Machine.execRdfrnd e v s
  | .wdfrnd e v => Sys2Proof.Machine.execWdfrnd e v s
  | .rdflag e v => Sys2Proof.Machine.execRdflag e v s
  | .clrflag e v => Sys2Proof.Machine.execClrflag e v s
  | .turn e v => Sys2Proof.Machine.execTurn e v s
  | .dfadd e m v => Sys2Proof.Machine.execDfadd e m v s
  | .dfsub e m v => Sys2Proof.Machine.execDfsub e m v s
  | .dfmul e m v => Sys2Proof.Machine.execDfmul e m v s
  | .dfdiv e m v => Sys2Proof.Machine.execDfdiv e m v s
  | .dffma e m v => Sys2Proof.Machine.execDffma e m v s
  | .dfcmp e m v => Sys2Proof.Machine.execDfcmp e m v s
  | .dfcmps e m v => Sys2Proof.Machine.execDfcmps e m v s
  | .dfquant e m v => Sys2Proof.Machine.execDfquant e m v s
  | .dfrint e m v => Sys2Proof.Machine.execDfrint e m v s
  | .dfscaleb e m v => Sys2Proof.Machine.execDfscaleb e m v s
  | .dfmin e m v => Sys2Proof.Machine.execDfmin e m v s
  | .dfmax e m v => Sys2Proof.Machine.execDfmax e m v s
  | .dfwiden e m v => Sys2Proof.Machine.execDfwiden e m v s
  | .dfnarrow e m v => Sys2Proof.Machine.execDfnarrow e m v s
  | .gs1 e m v => Sys2Proof.Machine.execGs1 e m v s
  | .luhn e m v => Sys2Proof.Machine.execLuhn e m v s
  | .m97 e m v => Sys2Proof.Machine.execM97 e m v s
  | .move e m v => Sys2Proof.Machine.execMove e m v s
  | .scmp e m v => Sys2Proof.Machine.execScmp e m v s
  | .scan e m v => Sys2Proof.Machine.execScan e m v s
  | .xlat e m v => Sys2Proof.Machine.execXlat e m v s
  | .fill e m v => Sys2Proof.Machine.execFill e m v s
  | .edit e m v => Sys2Proof.Machine.execEdit e m v s
  | .rep e op m v => Sys2Proof.Machine.execRep e op m v s
  | .interruptEntry e => Sys2Proof.Machine.execInterruptEntry e s
  | .storeWriteError e => Sys2Proof.Machine.execStoreWriteError e s
  | .bundleLimit e => Sys2Proof.Machine.execBundleLimit e s
  | .tickTimerExpiry e => Sys2Proof.Machine.execTickTimerExpiry e s
  | .tick bad => Sys2Proof.Machine.execTick bad s
  | .checkWord bad => Sys2Proof.Machine.execCheckWord bad s
  | .releasePoint => Sys2Proof.Machine.execReleasePoint s
  | .intakeClose => Sys2Proof.Machine.execIntakeClose s
  | .batchMembershipFinal => Sys2Proof.Machine.execBatchMembershipFinal s
  | .commitDeadline => Sys2Proof.Machine.execCommitDeadline s
  | .slippedRelease => Sys2Proof.Machine.execSlippedRelease s
  | .turnInEdge cycle => Sys2Proof.Machine.execTurnInEdge cycle s
  | .ppsInEdge err => Sys2Proof.Machine.execPpsInEdge err s
  | .turnSourceLost => Sys2Proof.Machine.execTurnSourceLost s
  | .turnSourceRestored => Sys2Proof.Machine.execTurnSourceRestored s
  | .holdTurnsReached => Sys2Proof.Machine.execHoldTurnsReached s
  | .ref10mOutOfTolerance bad => Sys2Proof.Machine.execRef10mOutOfTolerance bad s
  | .turnNumberLimit => Sys2Proof.Machine.execTurnNumberLimit s
  | .post port sub f => Sys2Proof.Machine.execPost port sub f s
  | .peek port sub f => Sys2Proof.Machine.execPeek port sub f s
  | .hello port sub f => Sys2Proof.Machine.execHello port sub f s
  | .arpRequest port sub target src => Sys2Proof.Machine.execArpRequest port sub target src s
  | .neighborSolicitation port sub target src => Sys2Proof.Machine.execNeighborSolicitation port sub target src s
  | .sync port sub g => Sys2Proof.Machine.execSync port sub g s
  | .followUp port sub g => Sys2Proof.Machine.execFollowUp port sub g s
  | .delayResp port sub g => Sys2Proof.Machine.execDelayResp port sub g s
  | .announce port sub g => Sys2Proof.Machine.execAnnounce port sub g s
  | .delayReq => Sys2Proof.Machine.execDelayReq s
  | .frameTransmit port sub => Sys2Proof.Machine.execFrameTransmit port sub s
  | .dispatch e key => Sys2Proof.Machine.execDispatch e key s
  | .sealAcknowledged key => Sys2Proof.Machine.execSealAcknowledged key s
  | .commit v => Sys2Proof.Machine.execCommit v s
  | .soloRunStart e key => Sys2Proof.Machine.execSoloRunStart e key s
  | .releaseMark w => Sys2Proof.Machine.execReleaseMark w s
  | .placementSelection => Sys2Proof.Machine.execPlacementSelection s
  | .wheelMoveComplete wheel => Sys2Proof.Machine.execWheelMoveComplete wheel s
  | .mbxDoorbell fn m w => Sys2Proof.Machine.execMbxDoorbell fn m w s
  | .sqPiWrite fn ring w => Sys2Proof.Machine.execSqPiWrite fn ring w s
  | .commandFetch fn ring data => Sys2Proof.Machine.execCommandFetch fn ring data s
  | .commandStart => Sys2Proof.Machine.execCommandStart s
  | .ringEnable fn ring w => Sys2Proof.Machine.execRingEnable fn ring w s
  | .ringDisable fn ring w => Sys2Proof.Machine.execRingDisable fn ring w s
  | .cqCiWrite fn ring w => Sys2Proof.Machine.execCqCiWrite fn ring w s
  | .coalescingTimer fn ring => Sys2Proof.Machine.execCoalescingTimer fn ring s
  | .evqEnable fn w => Sys2Proof.Machine.execEvqEnable fn w s
  | .msixUnmask fn vec => Sys2Proof.Machine.execMsixUnmask fn vec s
  | .functionLevelReset fn => Sys2Proof.Machine.execFunctionLevelReset fn s
  | .registerWrite tgt w => Sys2Proof.Machine.execRegisterWrite tgt w s
  | .tlbiVa vat who w => Sys2Proof.Machine.execTlbiVa vat who w s
  | .tlbiRoot vat who w => Sys2Proof.Machine.execTlbiRoot vat who w s
  | .tlbiFrame vat who w => Sys2Proof.Machine.execTlbiFrame vat who w s
  | .tlbiAll vat who w => Sys2Proof.Machine.execTlbiAll vat who w s
  | .tlbiComplete vat => Sys2Proof.Machine.execTlbiComplete vat s
  | .engSignal e who w => Sys2Proof.Machine.execEngSignal e who w s
  | .engineReset e => Sys2Proof.Machine.execEngineReset e s
  | .engineStart e => Sys2Proof.Machine.execEngineStart e s
  | .sramData e w => Sys2Proof.Machine.execSramData e w s
  | .rnPdata2 e w => Sys2Proof.Machine.execRnPdata2 e w s
  | .vcsGroupWrite who win off w => Sys2Proof.Machine.execVcsGroupWrite who win off w s
  | .vcsGroupRead who win off => Sys2Proof.Machine.execVcsGroupRead who win off s
  | .devInfo k => Sys2Proof.Machine.execDevInfo k s
  | .modeSet k zeroed => Sys2Proof.Machine.execModeSet k zeroed s
  | .reset k => Sys2Proof.Machine.execReset k s
  | .cmdStatus k => Sys2Proof.Machine.execCmdStatus k s
  | .policyWrite k => Sys2Proof.Machine.execPolicyWrite k s
  | .policyRead k => Sys2Proof.Machine.execPolicyRead k s
  | .fwStage k buf flash => Sys2Proof.Machine.execFwStage k buf flash s
  | .fwVerify k => Sys2Proof.Machine.execFwVerify k s
  | .fwSelect k flash => Sys2Proof.Machine.execFwSelect k flash s
  | .fwInfo k => Sys2Proof.Machine.execFwInfo k s
  | .cfgOpen k => Sys2Proof.Machine.execCfgOpen k s
  | .cfgLoad k buf => Sys2Proof.Machine.execCfgLoad k buf s
  | .cfgRoot k => Sys2Proof.Machine.execCfgRoot k s
  | .cfgActivate k => Sys2Proof.Machine.execCfgActivate k s
  | .cfgAbandon k => Sys2Proof.Machine.execCfgAbandon k s
  | .cfgQuery k => Sys2Proof.Machine.execCfgQuery k s
  | .regionSet k => Sys2Proof.Machine.execRegionSet k s
  | .ledgerMap k buf => Sys2Proof.Machine.execLedgerMap k buf s
  | .ledgerLoad k buf => Sys2Proof.Machine.execLedgerLoad k buf s
  | .ledgerRead k out v => Sys2Proof.Machine.execLedgerRead k out v s
  | .wheelHome k buf => Sys2Proof.Machine.execWheelHome k buf s
  | .recipePolicy k => Sys2Proof.Machine.execRecipePolicy k s
  | .keySet k => Sys2Proof.Machine.execKeySet k s
  | .turnConfig k => Sys2Proof.Machine.execTurnConfig k s
  | .turnStep k => Sys2Proof.Machine.execTurnStep k s
  | .turnStatus k => Sys2Proof.Machine.execTurnStatus k s
  | .laneWrite k buf => Sys2Proof.Machine.execLaneWrite k buf s
  | .laneRead k out => Sys2Proof.Machine.execLaneRead k out s
  | .laneKeys k buf => Sys2Proof.Machine.execLaneKeys k buf s
  | .portConfig k => Sys2Proof.Machine.execPortConfig k s
  | .jrnConfig k => Sys2Proof.Machine.execJrnConfig k s
  | .jrnAck k => Sys2Proof.Machine.execJrnAck k s
  | .jrnRead k out => Sys2Proof.Machine.execJrnRead k out s
  | .rplSupply k buf => Sys2Proof.Machine.execRplSupply k buf s
  | .rplStatus k => Sys2Proof.Machine.execRplStatus k s
  | .caveRead k out => Sys2Proof.Machine.execCaveRead k out s
  | .caveFirst k out => Sys2Proof.Machine.execCaveFirst k out s
  | .engineMap k res => Sys2Proof.Machine.execEngineMap k res s
  | .sramRead k out => Sys2Proof.Machine.execSramRead k out s
  | .sliceNow k res => Sys2Proof.Machine.execSliceNow k res s
  | .attest k out => Sys2Proof.Machine.execAttest k out s
  | .idCert k out => Sys2Proof.Machine.execIdCert k out s
  | .ownerSet k buf => Sys2Proof.Machine.execOwnerSet k buf s
  | .jmacRoll k => Sys2Proof.Machine.execJmacRoll k s
  | .testopenChal k => Sys2Proof.Machine.execTestopenChal k s
  | .testopenAuth k buf => Sys2Proof.Machine.execTestopenAuth k buf s
  | .testopenPermissionExpiry permission => Sys2Proof.Machine.execTestopenPermissionExpiry permission s
  | .vcsRead k => Sys2Proof.Machine.execVcsRead k s
  | .vcsWrite k => Sys2Proof.Machine.execVcsWrite k s
  | .tlbInval k timedOut => Sys2Proof.Machine.execTlbInval k timedOut s
  | .drainComplete => Sys2Proof.Machine.execDrainComplete s
  | .vfRetarget r watts => Sys2Proof.Machine.execVfRetarget r watts s
  | .railSettled row margins => Sys2Proof.Machine.execRailSettled row margins s
  | .glideComplete vat => Sys2Proof.Machine.execGlideComplete vat s
  | .droopGuard vat => Sys2Proof.Machine.execDroopGuard vat s
  | .powerRecalibration watts => Sys2Proof.Machine.execPowerRecalibration watts s
  | .thermalTrip vat celsius => Sys2Proof.Machine.execThermalTrip vat celsius s
  | .avsbusFailure row => Sys2Proof.Machine.execAvsbusFailure row s
  | .avsbusRetryRead row answer => Sys2Proof.Machine.execAvsbusRetryRead row answer s
  | .serdesBackgroundAdapt optimum => Sys2Proof.Machine.execSerdesBackgroundAdapt optimum s
  | .linkTraining link coefs => Sys2Proof.Machine.execLinkTraining link coefs s
  | .trackingWindow mc closes => Sys2Proof.Machine.execTrackingWindow mc closes s
  | .scrub mc line r raced => Sys2Proof.Machine.execScrub mc line r raced s
  | .refresh mc hot => Sys2Proof.Machine.execRefresh mc hot s
  | .engineSlice vat => Sys2Proof.Machine.execEngineSlice vat s
  | .engineDrainComplete e => Sys2Proof.Machine.execEngineDrainComplete e s
  | .sliceDrainTimeout vat => Sys2Proof.Machine.execSliceDrainTimeout vat s
  | .engineSliceComplete vat res => Sys2Proof.Machine.execEngineSliceComplete vat res s
  | .vatStoreSlice vat => Sys2Proof.Machine.execVatStoreSlice vat s
  | .vatStoreSliceComplete vat fails => Sys2Proof.Machine.execVatStoreSliceComplete vat fails s
  | .linkSlice link => Sys2Proof.Machine.execLinkSlice link s
  | .linkSliceComplete link fwd bwd => Sys2Proof.Machine.execLinkSliceComplete link fwd bwd s
  | .linkCrcError link => Sys2Proof.Machine.execLinkCrcError link s
  | .pwrgoodFall ns taken => Sys2Proof.Machine.execPwrgoodFall ns taken s
  | .pwrgoodRise p => Sys2Proof.Machine.execPwrgoodRise p s
  | .primeComplete r => Sys2Proof.Machine.execPrimeComplete r s
  | .resetNLow ns taken r => Sys2Proof.Machine.execResetNLow ns taken r s
  | .bootWatchdogExpiry r => Sys2Proof.Machine.execBootWatchdogExpiry r s
  | .perstNFall => Sys2Proof.Machine.execPerstNFall s
  | .perstNRise => Sys2Proof.Machine.execPerstNRise s
  | .vddAonLow => Sys2Proof.Machine.execVddAonLow s
  | .caveSuppressed => Sys2Proof.Machine.execCaveSuppressed s
  | .smbusStatusRead port pec => Sys2Proof.Machine.execSmbusStatusRead port pec s
  | .smbusRingPointer port pec w => Sys2Proof.Machine.execSmbusRingPointer port pec w s
  | .smbusAreaPointer port pec w => Sys2Proof.Machine.execSmbusAreaPointer port pec w s
  | .smbusRingRead port pec => Sys2Proof.Machine.execSmbusRingRead port pec s
  | .smbusAreaRead port pec => Sys2Proof.Machine.execSmbusAreaRead port pec s
  | .smbusModeRead port pec => Sys2Proof.Machine.execSmbusModeRead port pec s
  | .smbusPowerStatus port pec => Sys2Proof.Machine.execSmbusPowerStatus port pec s
  | .smbusTimeout port => Sys2Proof.Machine.execSmbusTimeout port s
  | .tapReset => Sys2Proof.Machine.execTapReset s
  | .extest cells => Sys2Proof.Machine.execExtest cells s
  | .samplePreload pins cells => Sys2Proof.Machine.execSamplePreload pins cells s
  | .idcode => Sys2Proof.Machine.execIdcode s
  | .clamp d => Sys2Proof.Machine.execClamp d s
  | .highz d => Sys2Proof.Machine.execHighz d s
  | .scanCfg testEn d => Sys2Proof.Machine.execScanCfg testEn d s
  | .scanShift testEn d => Sys2Proof.Machine.execScanShift testEn d s
  | .mbistAcc testEn d => Sys2Proof.Machine.execMbistAcc testEn d s
  | .caveRd testEn addr => Sys2Proof.Machine.execCaveRd testEn addr s
  | .bypass d => Sys2Proof.Machine.execBypass d s
  | .storeBufferWrite e => Sys2Proof.Machine.execStoreBufferWrite e s
  | .loadComplete e port v => Sys2Proof.Machine.execLoadComplete e port v s
  | .linkDown port sub => Sys2Proof.Machine.execLinkDown port sub s
  | .droppedFrame port sub overflow => Sys2Proof.Machine.execDroppedFrame port sub overflow s
  | .vddAonUp => Sys2Proof.Machine.execVddAonUp s
  | .resetNRise => Sys2Proof.Machine.execResetNRise s
  | .ddrAlert side channel => Sys2Proof.Machine.execDdrAlert side channel s
  | .commandedWarmReset r => Sys2Proof.Machine.execCommandedWarmReset r s
  | .flrComplete fn => Sys2Proof.Machine.execFlrComplete fn s
  | .illegalOpcode e op v => Sys2Proof.Machine.execIllegalOpcode e op v s

end Sys2Proof.Machine
end

