-- ==== Sys2Proof/Machine/Step.lean ====
section
/-! DEFINITION. One step of the QT9: the command at the front of the queue is carried out; with none waiting it idles. -/

namespace Sys2Proof.Machine

/-- One step: the front command's effect on the state with the queue's rest; an empty queue idles (log 1). -/
def step (s : State) : Host.Outcome State Fault Refusal :=
  match s.pending with
  | [] => .next s
  | c :: rest => exec c { s with pending := rest }

/-- The state with the command a word spells put at the front of its queue; unchanged where the word spells none. -/
def State.withFetchWord (s : State) (nbits w : Nat) : State :=
  match decodeTableWord nbits w with
  | some c => { s with pending := c :: s.pending }
  | none => s

end Sys2Proof.Machine
end

