-- ==== Sys2Proof/Safety.lean ====
section
/-! DEFINITION. What statements name: the invariants of the QT9, when a bundle or a Curd instruction issues, and what a
bundle leaves unchanged. -/

namespace Sys2Proof.Machine

/-! ### Invariants -/

/-- Physical memory and the key store are in canonical form: addresses strictly rising, no listed byte 0 (R527, R580). -/
def State.memWf (s : State) : Prop := Bytes.wf s.mem.bytes = true ∧ Bytes.wf s.mem.keys = true

/-- The released and staged bytes of the Press are in canonical form: addresses strictly rising (R87, R95). -/
def State.pressWf (s : State) : Prop :=
  risingFrom 0 s.prs.back = true ∧ ∀ b ∈ s.prs.batches, risingFrom 0 b.2.staged = true

/-- The scratch store and the local SRAM of every engine are in canonical form (R162, R157). -/
def State.localWf (s : State) : Prop :=
  ∀ e, Bytes.wf (s.eng e).mem.scratch = true ∧ Bytes.wf (s.eng e).mem.sram = true

/-- The device is in exactly one of the twelve modes (R558). -/
def State.modeWf (s : State) : Prop := s.dev.mode ≤ 11

/-- The modes to which the table of R559 lets the device go from a mode: a cold or warm reset and PWRGOOD low from every
mode that has them, a cause of Safe Hold where one arises, the listed MODE_SETs and the automatic changes. -/
def nextModes : Nat → List Nat
  | 0 => [1]
  | 1 => [0, 2, 9]
  | 2 => [0, 1, 3, 9]
  | 3 => [0, 1, 4, 5, 7, 8, 9, 11]
  | 4 => [0, 1, 6, 8, 9]
  | 5 => [0, 1, 6, 8, 9]
  | 6 => [0, 1, 3, 9]
  | 7 => [0, 1, 6, 9]
  | 8 => [0, 1, 6, 9]
  | 9 => [0, 1, 10]
  | 10 => [0, 1, 9, 11]
  | 11 => [0, 1, 9]
  | _ => []

/-- Guard 0 of every engine is 1 (R140). -/
def State.guardWf (s : State) : Prop := ∀ e, (s.eng e).p.getLsbD 0 = true

/-! ### Bundles -/

/-- A bundle issues on an engine and is decoded (R183, R206, R342, R372, R384, R394): the engine executes Rind, no array
fails parity, no machine check or report is due before the bundle nor a divide that still owes one, the bytes fetched,
with the corrected errors recorded first (R529), are the bundle's, its decode checks pass, and no divide makes it wait. s1 is
the state after the fetch. -/
structure Issues (s : State) (e : Nat) (b : Bundle) (v : Env) (s1 : State) : Prop where
  ready : (s.eng e).ready = true
  priv : (s.eng e).cr.esw.priv = true
  parity : v.parity ≠ some 5 ∧ v.parity ≠ some 2 ∧ v.parity ≠ some 3
  amc : (s.eng e).cr.esw.bp = true ∨ (s.eng e).amc = none ∧ (s1.eng e).amc = none
  due : (s.eng e).reportPoint b = true → (s.eng e).owes = false ∧ (s.eng e).imp = none
  fetched : ∃ p, (s.corrected (ceLines v)).fetch e (ueLines v) 16 = (s1, .ok p) ∧ ofBytes p = b.toNat
  decoded : decodeCheck b (s.eng e).cr.esw.bp = none
  stall : s1.stalls e b = false

/-- Whether a move goes to a tally, guard or palette register, to NULL or to an operand port, and passes the check of
pairs. -/
def Mv.plain (m : Mv) (b : Bundle) : Bool := !isTrig m.dst && !isCr m.dst && !m.pairBad (slotsOf b)

/-- The executing moves of a bundle are m, to a trigger port, and plain moves (R171, R174). -/
structure Triggers (s1 : State) (e : Nat) (b : Bundle) (m : Mv) : Prop where
  trig : isTrig m.dst = true
  pair : m.pairBad (slotsOf b) = false
  rest : ∃ pre post, s1.moves e b = pre ++ m :: post ∧ (pre ++ post).all (·.plain b) = true

/-- The operand latches when the trigger of a bundle fires (R180 steps 1 and 2). -/
def State.latched (s1 : State) (e : Nat) (b : Bundle) : Ports := latchMoves (s1.eng e).ports (s1.moves e b)

/-- Nothing but engine e, and the model's count of free values, differs between two states. -/
def OnlyEngine (s t : State) (e : Nat) : Prop :=
  t = { s with engs := t.engs, fresh := t.fresh } ∧ ∀ j, j ≠ e → t.eng j = s.eng j

/-- What a bundle with a unit trigger leaves: nothing but its engine differs; tally, guard and palette registers are as
its moves to registers leave them, but for the guard that the trigger writes (0: none); memory side and pending values,
and every control register but AFLAG, CYC, LC and ESW (of it BP, LA and CB) are unchanged; so is the port set not in use
(R180, R242, R378). -/
structure BundleFrame (s1 t : State) (e : Nat) (b : Bundle) (guard : Nat) : Prop where
  only : OnlyEngine s1 t e
  tally : (t.eng e).t = ((s1.eng e).regMoves (s1.moves e b)).t
  palette : (t.eng e).b = ((s1.eng e).regMoves (s1.moves e b)).b
  guards : ∀ i, i ≠ guard → (t.eng e).p.getLsbD i = ((s1.eng e).regMoves (s1.moves e b)).p.getLsbD i
  side : (t.eng e).mem = (s1.eng e).mem ∧ (t.eng e).sync = (s1.eng e).sync
  cr : { (t.eng e).cr with
      aflag := (s1.eng e).cr.aflag, cyc := (s1.eng e).cr.cyc, lc := (s1.eng e).cr.lc, esw := (s1.eng e).cr.esw } =
    (s1.eng e).cr
  esw : { (t.eng e).cr.esw with
      bp := (s1.eng e).cr.esw.bp, la := (s1.eng e).cr.esw.la, cb := (s1.eng e).cr.esw.cb } = (s1.eng e).cr.esw
  set : (t.eng e).hset = (s1.eng e).hset ∧
    (if (s1.eng e).hset then (t.eng e).prog = (s1.eng e).prog else (t.eng e).hand = (s1.eng e).hand)

/-- The entry of an exception of a bundle or instruction before which no machine check, report or interrupt is due (R371, R372,
R379): x the answer, s the state that its checks leave. -/
def Raises (x : Answer) (s : State) (e : Nat) (ue : List Nat) (y : Exc) (ilen : Nat) : Prop :=
  let u := s.longDone e
  (u.eng e).amc = none → (u.eng e).imp = none → u.irq e = none → x = .next (u.raise e ue y ilen)

/-- The write w of control register n in a bundle (R166, R167, R89): the value of a synchronising register is pending, any
other register holds what its put gives, but for LC, CYC and ESW as the bundle's retirement leaves them; in a transaction a
register of R89 keeps its value. -/
def ControlPut (s1 t : State) (e n : Nat) (w : W64) : Prop :=
  let dead := decide ((s1.esw e).tx ≠ 0) && crZero n
  (t.eng e).sync = (if dead = false ∧ crSync n = true then pendPut (s1.eng e).sync n w else (s1.eng e).sync) ∧
  (dead = false → crSync n = false →
    let c := (s1.eng e).cr.put n w (s1.prForced e)
    { (t.eng e).cr with lc := c.lc, cyc := c.cyc, esw := c.esw } = c ∧
    ((s1.eng e).cr.esw.la = false → (t.eng e).cr.lc = c.lc))

/-- The state in which a late effect of a bundle takes place: its moves done, and the bundle counted (R180, R79). -/
def State.counted (s : State) (e : Nat) : State := s.modEng e fun g => { g.countUp with nb := g.nb + 1 }

/-- What a trigger and its bundle's retirement may change in an engine beside ports and what a statement names: the guard
it writes (0: none), AFLAG, CYC, LC, and of ESW BP, LA and CB. -/
structure UnitChange (g g' : Eng) (guard : Nat) : Prop where
  tally : g'.t = g.t
  palette : g'.b = g.b
  guards : ∀ i, i ≠ guard → g'.p.getLsbD i = g.p.getLsbD i
  side : g'.mem = g.mem ∧ g'.sync = g.sync
  cr : { g'.cr with aflag := g.cr.aflag, cyc := g.cr.cyc, lc := g.cr.lc, esw := g.cr.esw } = g.cr
  esw : { g'.cr.esw with bp := g.cr.esw.bp, la := g.cr.esw.la, cb := g.cr.esw.cb } = g.cr.esw
  set : g'.hset = g.hset ∧ (if g.hset then g'.prog = g.prog else g'.hand = g.hand)

/-! ### Curd instructions -/

/-- A Curd instruction is fetched and decoded (R209 orders 1 to 5, R372): the engine executes Curd, no parity fails,
nothing is due before the instruction, the bytes fetched are the instruction's, first those that tell its length, and its
operand bytes hold nothing reserved. s1 is the state after the fetch. -/
structure CurdReady (s : State) (e : Nat) (v : Env) (op imm : Nat) (rep : Bool) (s1 : State) : Prop where
  ready : (s.eng e).ready = true
  user : (s.eng e).cr.esw.priv = false
  parity : v.parity ≠ some 5 ∧ v.parity ≠ some 2 ∧ v.parity ≠ some 3
  clear : (s.eng e).amc = none ∧ (s1.eng e).amc = none ∧ (s.eng e).imp = none
  listed : (curdLen op).isSome = true
  fetched : ∃ s0 p q, (s.corrected (ceLines v)).fetchAt e (ueLines v) (s.eng e).pc.toNat (1 + rep.toNat) = (s0, .ok p) ∧
    p = (curdBytes op imm rep).take (1 + rep.toNat) ∧
    s0.fetchAt e (ueLines v) (s.eng e).pc.toNat ((curdLen op).getD 1 + rep.toNat) = (s1, .ok q) ∧
    (curdBytes op imm rep).isPrefixOf q = true
  legal : curdReserved op (if rep then repImm op imm else imm) = false

/-- The stack holds the operands and takes the results of an instruction that pops k elements and pushes m, with all of
them in registers: no spill and no fill (R211 to R214). -/
structure InRegisters (g : Eng) (k m : Nat) : Prop where
  operands : k ≤ g.cr.depth
  room : g.cr.depth - k + m ≤ g.cr.capacity
  before : g.cr.depth ≤ 16
  after : g.cr.depth - k + m ≤ 16

/-- The stack holds the operands and takes the results of an instruction that pops k elements and pushes m at any depth; the
memory slots of the elements that leave the registers pass as stores, those of the elements that return as loads (R211 to
R214). s2 is the state after these checks, sp and fl are the elements with their places. -/
structure Stacked (s1 : State) (e k m : Nat) (v : Env) (s2 : State) (sp fl : List (Nat × Place)) : Prop where
  operands : k ≤ (s1.eng e).cr.depth
  room : (s1.eng e).cr.depth - k + m ≤ (s1.eng e).cr.capacity
  slots : ∃ u, State.checkSlots e (ueLines v) .store
      (spillsOf (s1.eng e).cr.depth ((s1.eng e).cr.depth - k + m)) s1 = (u, .ok sp) ∧
    State.checkSlots e (ueLines v) .load (fillsOf (s1.eng e).cr.depth ((s1.eng e).cr.depth - k + m)) u = (s2, .ok fl)

/-- The elements that leave the registers stored to their slots from the registers t, then those that return loaded into
theirs (R213, R214). -/
def State.moved (s : State) (e : Nat) (t : List Tally) (sp fl : List (Nat × Place)) : Except Halt State :=
  match State.spill e t sp s with
  | .error h => .error h
  | .ok u => State.fillRegs e fl u

/-- The engine after an instruction of len bytes that left d elements of the stack and pushed r on them (R213, R216). -/
def Eng.pushedTo (g : Eng) (d len : Nat) (r : List Tally) : Eng :=
  { (g.push d r).countUp with pc := g.pc + BitVec.ofNat 32 len }

/-- The engine after an instruction of len bytes that popped k elements and pushed r (R213, R216). -/
def Eng.pushed (g : Eng) (k len : Nat) (r : List Tally) : Eng := g.pushedTo (g.cr.depth - k) len r

/-- What a unit that a Curd instruction calls leaves before the stack effect (R221): nothing but its engine's ports, of the
set in use, and the AFLAG bits of flags. -/
structure UnitRan (s u : State) (e flags : Nat) : Prop where
  only : OnlyEngine s u e
  engine : { u.eng e with prog := (s.eng e).prog, hand := (s.eng e).hand, cr := { (u.eng e).cr with
    aflag := (s.eng e).cr.aflag } } = s.eng e
  set : if (s.eng e).hset then (u.eng e).prog = (s.eng e).prog else (u.eng e).hand = (s.eng e).hand
  aflag : (u.eng e).cr.aflag = (s.eng e).cr.aflag ||| BitVec.ofNat 64 flags

/-- What a Curd instruction that calls a unit leaves (R213, R221): its stack effect, its next address, and beside them
nothing but the unit's ports and AFLAG. -/
structure UnitPushed (s1 t : State) (e k len : Nat) (r : List Tally) : Prop where
  only : OnlyEngine s1 t e
  engine : { t.eng e with
      prog := (s1.eng e).prog, hand := (s1.eng e).hand, cr := { (t.eng e).cr with aflag := (s1.eng e).cr.aflag } } =
    (s1.eng e).pushed k len r
  set : if (s1.eng e).hset then (t.eng e).prog = (s1.eng e).prog else (t.eng e).hand = (s1.eng e).hand

/-- A Curd instruction of len bytes that calls a unit and pops k elements and pushes r, at any depth (R213, R214, R221): x the
answer, s1 the state after the fetch and s2 after the checks of the slots. Behind what the unit leaves, the elements that leave
the registers are stored and those that return are loaded; with all of them in registers nothing else happens. -/
def UnitStacked (x : Answer) (s1 s2 : State) (e k len flags : Nat) (sp fl : List (Nat × Place)) (r : List Tally) : Prop :=
  (∃ u, UnitRan s2 u e flags ∧ ∀ s4, u.moved e (s2.eng e).t sp fl = .ok s4 →
    x = .next (s4.modEng e fun h => h.pushedTo ((s1.eng e).cr.depth - k) len r)) ∧
  (InRegisters (s1.eng e) k r.length → ∃ t, x = .next t ∧ UnitPushed s1 t e k len r ∧
    (t.eng e).cr.aflag = (s1.eng e).cr.aflag ||| BitVec.ofNat 64 flags)

/-! ### Commands of Viari -/

/-- Nothing of a function but what an event leaves in it differs: its event ring's control, index and phase, FN_STAT and the
messages that are pending (R434, R436). -/
def Fn.told (x y : Fn) : Prop :=
  { y with evqCtl := x.evqCtl, evqPi := x.evqPi, evqPhase := x.evqPhase, stat := x.stat, pend := x.pend } = x

/-- What the end of the command in slot k leaves (R424, R426, R431, R441, R451): the slot is free and the command's record
is kept; its response is in its mailbox, with STATE DONE, or written to its completion ring when the ring has room and
nothing before it waits; a command whose function was reset answers nothing; nothing else changes, but that a refused
completion write is an event for other functions (R432). -/
structure Ends (u t : State) (k : Nat) (r : Run) (status : Nat) (result : List Byte) : Prop where
  via : t.via = { u.via with
    runs := u.via.runs.drop k
    recs := addRec u.via.recs
      ⟨r.cmd.id, r.cmd.fn, r.cmd.source, numAt r.cmd.bytes 4 4, 3, status, slice result 0 44⟩ }
  rest : { t with via := u.via, host := u.host, out := u.out } = u
  mute : r.mute = true → t.host = u.host ∧ t.out = u.out
  mailbox : r.mute = false → r.cmd.source < 64 →
    (t.mbox r.cmd.fn r.cmd.source).rsp =
      toBytes 2 status ++ [0, 0] ++ toBytes 4 (numAt r.cmd.bytes 4 4) ++ toBytes 8 u.trn.turn ++ slice result 0 48 ∧
    fld (t.mbox r.cmd.fn r.cmd.source).stat 2 0 = 3
  ring : r.mute = false → ∀ n rest, r.cmd.source = 64 + n →
    let q := (u.fn r.cmd.fn).ring n
    let size := 2 ^ fld (q.ctlOf n) 23 20
    q.order = r.cmd.id :: rest → q.held = [] → (q.cqPi + 1) % size ≠ q.cqCi % size →
    Out.dma r.cmd.fn (q.cqBase.toNat + 64 * q.cqPi) (toBytes 2 status ++ [if q.phase then 0x80 else 0, 0] ++
      toBytes 4 (numAt r.cmd.bytes 4 4) ++ toBytes 8 u.trn.turn ++ slice result 0 48) ∈ t.out
  others : ∀ f, f ≠ r.cmd.fn → (u.fn f).told (t.fn f) ∧
    (r.mute = true ∨ r.cmd.source < 64 ∨ (∀ id, Config.cqRefused id = false) → t.fn f = u.fn f)

/-- The command in slot k ends: u is the state with its effect made. -/
def Ended (x : Answer) (u : State) (k : Nat) (r : Run) (status : Nat) (result : List Byte) : Prop :=
  ∃ t, x = .next t ∧ Ends u t k r status result

/-! ### Frames -/

/-- A frame passes checks 1 to 6 of R482 with the lane entry x and the lane key k. -/
structure Genuine (s : State) (port sub : Nat) (f : RxFrame) (x : Lane) (k : List Byte) : Prop where
  on : s.portsOn = true
  takes : (s.sub port sub).takes f = true
  format : qlfOk f = true
  lane : hLane f.payload < 1048576
  entry : s.laneAt f.turn (hLane f.payload) = x
  valid : x.valid = true ∧ x.keyv = true
  key : s.laneKeyAt f.turn (hLane f.payload) = some k
  mac : macOf k f.payload (f.payload.drop 32) = slice f.payload 20 12
  reserved : numAt f.payload 2 1 < 8 ∧ numAt f.payload 3 1 = 0 ∧ numAt f.payload 16 4 = 0

/-- A POST or PEEK passes checks 7 to 12 of R482 too, in turn n under configuration set c. -/
structure Admissible (s : State) (port sub : Nat) (f : RxFrame) (x : Lane) (peek : Bool) (n : Nat) (c : CfgSet) : Prop where
  enabled : (if peek then x.peekEn else x.postEn) = true ∧ x.ports.getLsbD (4 * port + sub) = true
  turn : f.turn = some n
  set : s.setFor n = some c
  recipe : ∃ d, c.desc (hRid f.payload) = some d ∧ (d.getD 2 0).getLsbD (if peek then 1 else 0) = true
  fields : fieldsOk 1408 (f.payload.drop 32) = true
  sequence : x.test (fld s.itk.ctl 8 4) (hSeq f.payload) = .fresh
  room : s.busy peek (some n) (min (numAt f.payload 2 1) x.classMax) = none

end Sys2Proof.Machine
end

