-- ==== Sys2Proof/Certificates/Slice0/Obligations.lean ====
section
/-! DEFINITION. The statements for the provers. -/

open Sys2Proof Sys2Proof.Machine

/-- R187: each ALU trigger of a bundle, on either unit, puts the result of its operation on the operand latch and the
value moved in into its result port, the three comparisons write 1 or 0 and the guard that OPMOD names, and nothing else
changes but what the bundle's other moves and its retirement change (BundleFrame). Triggers of both units in one bundle each
do so, from the same latches (R180). A reserved OPMOD bit of an ALU trigger fails the decode checks. -/
def Obligations.AluResult : Prop :=
  let rows : List ((EngId → Bundle → Env → Instr) × Nat × (W64 → W64 → W64)) := [
      (Instr.aluAdd, 0, fun o t => o + t), (Instr.aluSub, 1, fun o t => o - t), (Instr.aluAnd, 2, fun o t => o &&& t),
      (Instr.aluOr, 3, fun o t => o ||| t), (Instr.aluXor, 4, fun o t => o ^^^ t),
      (Instr.aluShl, 5, fun o t => o <<< (t.toNat % 64)), (Instr.aluShr, 6, fun o t => o >>> (t.toNat % 64)),
      (Instr.aluSar, 7, fun o t => o.sshiftRight (t.toNat % 64)), (Instr.aluMul, 8, fun o t => o * t),
      (Instr.aluCeq, 9, fun o t => if o = t then 1 else 0),
      (Instr.aluClt, 10, fun o t => if o.toInt < t.toInt then 1 else 0),
      (Instr.aluCltu, 11, fun o t => if o.toNat < t.toNat then 1 else 0)]
  (∀ row ∈ rows,
    ∀ (s s1 : State) (e : EngId) (b : Bundle) (v : Env) (m : Mv),
      Issues s e.val b v s1 → Triggers s1 e.val b m → (m.dst = 0x210 + row.2.1 ∨ m.dst = 0x230 + row.2.1) →
      ∃ t, exec (row.1 e b v) s = .next t ∧
        BundleFrame s1 t e.val b (if 9 ≤ row.2.1 then m.op % 16 else 0) ∧
        (t.eng e.val).cr.aflag = (s1.eng e.val).cr.aflag ∧
        (let q := s1.latched e.val b
         let r := row.2.2 (if m.dst < 0x230 then q.alu0o else q.alu1o) (m.val.setWidth 64)
         (t.eng e.val).ports = (if m.dst < 0x230 then { q with alu0r := r } else { q with alu1r := r }) ∧
           (9 ≤ row.2.1 → m.op % 16 ≠ 0 → (t.eng e.val).p.getLsbD (m.op % 16) = decide (r = 1)))) ∧
  (∀ row ∈ rows, ∀ row' ∈ rows, ∀ (s s1 : State) (e : EngId) (b : Bundle) (v : Env) (m m' : Mv) (l1 l2 l3 : List Mv),
      Issues s e.val b v s1 → m.dst = 0x210 + row.2.1 → m'.dst = 0x230 + row'.2.1 →
      m.pairBad (slotsOf b) = false → m'.pairBad (slotsOf b) = false → (l1 ++ l2 ++ l3).all (·.plain b) = true →
      (s1.moves e.val b = l1 ++ m :: l2 ++ m' :: l3 ∨ s1.moves e.val b = l1 ++ m' :: l2 ++ m :: l3) →
      let q := s1.latched e.val b
      let g := (s1.eng e.val).regMoves (s1.moves e.val b)
      let r := row.2.2 q.alu0o (m.val.setWidth 64)
      let r' := row'.2.2 q.alu1o (m'.val.setWidth 64)
      let i := if 9 ≤ row.2.1 then m.op % 16 else 0
      let j := if 9 ≤ row'.2.1 then m'.op % 16 else 0
      ∃ t, exec (.bundleMove e b v) s = .next t ∧ OnlyEngine s1 t e.val ∧
        (t.eng e.val).ports = { q with alu0r := r, alu1r := r' } ∧ (t.eng e.val).t = g.t ∧ (t.eng e.val).b = g.b ∧
        (t.eng e.val).mem = (s1.eng e.val).mem ∧ (t.eng e.val).cr.aflag = (s1.eng e.val).cr.aflag ∧
        (i ≠ 0 → i ≠ j → (t.eng e.val).p.getLsbD i = decide (r = 1)) ∧
        (j ≠ 0 → i ≠ j → (t.eng e.val).p.getLsbD j = decide (r' = 1)) ∧
        ∀ k, k ≠ i → k ≠ j → (t.eng e.val).p.getLsbD k = g.p.getLsbD k) ∧
  ∀ (b : Bundle) (delay : Bool) (n : Nat) (x : Slot), (n, x) ∈ slotsOf b →
    (0x210 ≤ x.dst ∧ x.dst ≤ 0x21B ∨ 0x230 ≤ x.dst ∧ x.dst ≤ 0x23B) →
    (if 9 ≤ x.dst % 16 then 16 ≤ x.op else x.op ≠ 0) → decodeCheck b delay ≠ none

/-- R241, R243, R247, R250: each trigger of DA, DM, CV (b2d, d2b, f2t) and CK puts its result, or the masked result of a
condition that is not delivered as a precise exception (R252), into its result port, sets the AFLAG bit of the condition
(R153), and writes the guard that OPMOD names (R242); a product joins the list from which MP0 and MP1 read (R191). A
condition that is enabled and precise is an exception of the bundle instead, with its class and AFLAG bit (R252). A CV trigger
runs on Rennet: none of its microwords fails (R416). -/
def Obligations.DecimalResult : Prop :=
  ∀ row ∈ ([
      (Instr.daAdd, 0x250, fun q t _ op _ => daAdd q.dao t op, fun q r _ => { q with dar := r.r }),
      (Instr.daSub, 0x251, fun q t _ op _ => daSub q.dao t op, fun q r _ => { q with dar := r.r }),
      (Instr.daCmp, 0x252, fun q t _ op _ => daCmp q.dao t op, fun q r _ => { q with dar := r.r }),
      (Instr.daSrnd, 0x253, fun _ t _ op d => daSrnd t op d, fun q r _ => { q with dar := r.r }),
      (Instr.daNeg, 0x254, fun _ t _ _ _ => daNeg t, fun q r _ => { q with dar := r.r }),
      (Instr.daAbs, 0x255, fun _ t _ op _ => daAbs t op, fun q r _ => { q with dar := r.r }),
      (Instr.daTest, 0x256, fun _ t _ op _ => daTest t op, fun q r _ => { q with dar := r.r }),
      (Instr.dmMul, 0x270, fun q t _ op d => dmMul q.dmo t op d,
        fun q r n => { q with prods := pushProd q.prods n r.r r.r2 }),
      (Instr.cvB2d, 0x2D0, fun _ t _ op _ => cvB2d (t.setWidth 64) op,
        fun q r _ => { q with cvr := ⟨r.r.setWidth 128, false⟩ }),
      (Instr.cvD2b, 0x2D1, fun _ t _ op _ => cvD2b t op, fun q r _ => { q with cvr := ⟨r.r.setWidth 128, false⟩ }),
      (Instr.cvF2t, 0x2D3,
        fun _ _ l op d => cvF2t (if op % 2 = 1 then l.hi.toNat * 2 ^ 64 + l.lo.toNat else l.hi.toNat) op d,
        fun q r _ => { q with cvr := ⟨r.r.setWidth 128, false⟩ }),
      (Instr.ckGs1, 0x2F0, fun _ t _ op _ => ckOp 0 t op, fun q r _ => { q with ckr := r.r }),
      (Instr.ckLuhn, 0x2F1, fun _ t _ op _ => ckOp 1 t op, fun q r _ => { q with ckr := r.r }),
      (Instr.ckM97, 0x2F2, fun _ t _ op _ => ckOp 2 t op, fun q r _ => { q with ckr := r.r })] :
      List ((EngId → Bundle → Env → Instr) × Nat × (Ports → Tally → DfLatch → Nat → Nat → URes) ×
        (Ports → URes → Nat → Ports))),
    ∀ (s s1 : State) (e : EngId) (b : Bundle) (v : Env) (m : Mv),
      Issues s e.val b v s1 → Triggers s1 e.val b m → m.dst = row.2.1 →
      (m.dst = 0x2D3 → m.op % 2 = 1 → m.pair = true) →
      (m.dst / 16 = 0x2D → s1.rnFault e.val v m.dst m.op = none) →
      let r := row.2.2.1 (s1.latched e.val b) (m.val.setWidth 96) (latchOf m.val m.pair) m.op (s1.esw e.val).drnd.toNat
      (∀ c, r.cond = some c → (s1.esw e.val).enabled c = true → (s1.esw e.val).precise = true →
        Raises (exec (row.1 e b v) s) s1 e.val (ueLines v)
          { cls := xOfCond c, faddr := slotPort m.slot m.dst, aflag := aflagOf c } 0) ∧
      ((∀ c, r.cond = some c → (s1.esw e.val).enabled c = false ∨ (s1.esw e.val).precise = false) →
      ∃ t, exec (row.1 e b v) s = .next t ∧ BundleFrame s1 t e.val b r.guard ∧
        (t.eng e.val).ports = row.2.2.2 (s1.latched e.val b) r (s1.eng e.val).nb ∧
        (t.eng e.val).cr.aflag = (s1.eng e.val).cr.aflag ||| BitVec.ofNat 64 (r.cond.elim 0 aflagOf) ∧
        (r.guard ≠ 0 → (t.eng e.val).p.getLsbD r.guard = r.gval) ∧
        (∀ c, r.cond = some c → (s1.esw e.val).enabled c = true → (t.eng e.val).imp.isSome = true))

/-- R247, R260, R264, R274, R275: each trigger of DF, of div one with a trap enabled, and CV.t.t2f of a valid tally, whose flags no trap is enabled
for, puts its result into its result port and sets its flags in AFLAG; a comparison writes the guard that OPMOD names. Where a
trap is enabled for one of its flags, it is an exception of the bundle instead, with the flags and the trap record (R275,
R276). So is div where a trap is enabled, whose result is written within its bundle when none applies. No microword of t2f or
of such a div fails (R416). -/
def Obligations.FloatResult : Prop :=
  (∀ row ∈ ([(Instr.dfAdd, 0), (Instr.dfSub, 1), (Instr.dfMul, 2), (Instr.dfDiv, 3), (Instr.dfFma, 4), (Instr.dfCmp, 5), (Instr.dfCmps, 6),
       (Instr.dfQuant, 7), (Instr.dfRint, 8), (Instr.dfScaleb, 9), (Instr.dfMin, 10), (Instr.dfMax, 11),
       (Instr.dfWiden, 12), (Instr.dfNarrow, 13)] : List ((EngId → Bundle → Env → Instr) × Nat)),
     ∀ (s s1 : State) (e : EngId) (b : Bundle) (v : Env) (m : Mv),
       Issues s e.val b v s1 → Triggers s1 e.val b m → m.dst = 0x2B0 + row.2 →
       let q := s1.latched e.val b
       let t := latchOf m.val m.pair
       let r := dfOp row.2 m.op (s1.esw e.val).dfrnd q.dfo q.dfo2 t
       dfPairBad row.2 m.op q.dfo q.dfo2 t = false →
       (row.2 = 3 → (s1.esw e.val).dfte ≠ 0 ∧ s1.rnFault e.val v m.dst m.op = none) →
       ((s1.esw e.val).dfte.toNat &&& r.flags ≠ 0 → Raises (exec (row.1 e b v) s) s1 e.val (ueLines v)
         { cls := xFloat, faddr := slotPort m.slot m.dst, aflag := r.flags,
           dft := some (dftRecord m.dst m.op q.dfo q.dfo2 t r.flags r.bytes) } 0) ∧
       ((s1.esw e.val).dfte.toNat &&& r.flags = 0 →
       ∃ t, exec (row.1 e b v) s = .next t ∧ BundleFrame s1 t e.val b r.guard ∧
         (t.eng e.val).ports = { q with dfr := ⟨BitVec.ofNat 128 r.val, r.wide⟩ } ∧
         (t.eng e.val).cr.aflag = (s1.eng e.val).cr.aflag ||| BitVec.ofNat 64 r.flags ∧
         (r.guard ≠ 0 → (t.eng e.val).p.getLsbD r.guard = r.gval))) ∧
  (∀ (s s1 : State) (e : EngId) (b : Bundle) (v : Env) (m : Mv),
     Issues s e.val b v s1 → Triggers s1 e.val b m → m.dst = 0x2D2 →
     let r := cvT2f (m.val.setWidth 96) m.op (s1.esw e.val).dfrnd.toNat
     let wide := decide (m.op % 2 = 1)
     s1.rnFault e.val v m.dst m.op = none → r.1 = none →
     ((s1.esw e.val).dfte.toNat &&& r.2.2 ≠ 0 → Raises (exec (.cvT2f e b v) s) s1 e.val (ueLines v)
       { cls := xFloat, faddr := slotPort m.slot m.dst, aflag := r.2.2,
         dft := some (dftRecord 0x2D2 m.op {} {} { latchOf ((m.val.setWidth 96 : Tally).setWidth 128) true with pair := false }
           r.2.2 (if wide then toBytes 16 r.2.1 else toBytes 8 r.2.1)) } 0) ∧
     ((s1.esw e.val).dfte.toNat &&& r.2.2 = 0 →
     ∃ t, exec (.cvT2f e b v) s = .next t ∧ BundleFrame s1 t e.val b 0 ∧
       (t.eng e.val).ports = { s1.latched e.val b with cvr := ⟨BitVec.ofNat 128 r.2.1, wide⟩ } ∧
       (t.eng e.val).cr.aflag = (s1.eng e.val).cr.aflag ||| BitVec.ofNat 64 r.2.2))

/-- R244 to R246, R278: DD.t.div and DF.t.div of a Rind bundle start their divides with the operands, OPMOD and rounding
mode of the bundle, and the bundle retires; when a divide completes, its result ports hold its results, the AFLAG bits of
its conditions are set, and the unit is free; a DF divide runs on Rennet, no microword of which fails (R416). A DD divide
whose enabled condition is precise does not start but raises it (R252); a DF div with a trap enabled does not start either
(R275). -/
def Obligations.Divides : Prop :=
  ∀ (s s1 : State) (e : EngId) (b : Bundle) (v : Env) (m : Mv),
    (Issues s e.val b v s1 → Triggers s1 e.val b m → m.dst = 0x290 → (s1.eng e.val).cr.esw.priv = true →
      let q := s1.latched e.val b
      let r := ddDiv q.ddo (m.val.setWidth 96) (m.op % 2 ^ 9) (s1.esw e.val).drnd.toNat
      (∀ c, r.cond = some c → (s1.esw e.val).enabled c = true → (s1.esw e.val).precise = true →
        Raises (exec (.ddDiv e b v) s) s1 e.val (ueLines v)
          { cls := xOfCond c, faddr := slotPort m.slot m.dst, aflag := aflagOf c } 0) ∧
      ((∀ c, r.cond = some c → (s1.esw e.val).enabled c = false ∨ (s1.esw e.val).precise = false) →
      ∃ t d, exec (.ddDiv e b v) s = .next t ∧ BundleFrame s1 t e.val b 0 ∧ (t.eng e.val).ports = q ∧
        (t.eng e.val).dd = some d ∧ d.o = q.ddo ∧ d.t = m.val.setWidth 96 ∧ d.handler = (s1.eng e.val).hset ∧ d.res = r ∧
        d.on = r.cond.elim false (s1.esw e.val).enabled)) ∧
    (Issues s e.val b v s1 → Triggers s1 e.val b m → m.dst = 0x2B3 → (s1.eng e.val).cr.esw.priv = true →
      (s1.esw e.val).dfte = 0 →
      let q := s1.latched e.val b
      let t := latchOf m.val m.pair
      dfPairBad 3 m.op q.dfo q.dfo2 t = false →
      ∃ t' d, exec (.dfDiv e b v) s = .next t' ∧ BundleFrame s1 t' e.val b 0 ∧ (t'.eng e.val).ports = q ∧
        (t'.eng e.val).df = some d ∧ d.o = q.dfo ∧ d.t = t ∧ d.handler = (s1.eng e.val).hset ∧
        d.opmod = BitVec.ofNat 9 m.op ∧ d.dfrnd = (s1.esw e.val).dfrnd) ∧
    (∀ d, (s.eng e.val).dd = some d → ∃ t, exec (.ddDivComplete e v) s = .next t ∧ OnlyEngine s t e.val ∧
      (t.eng e.val).dd = none ∧
      (if d.handler then (t.eng e.val).hand else (t.eng e.val).prog) =
        { (if d.handler then (s.eng e.val).hand else (s.eng e.val).prog) with dq := d.res.r, drm := d.res.r2 } ∧
      (t.eng e.val).cr.aflag = (s.eng e.val).cr.aflag ||| BitVec.ofNat 64 (d.res.cond.elim 0 aflagOf) ∧
      (d.on = true → d.res.cond.isSome = true → (t.eng e.val).imp.isSome = true) ∧
      (t.eng e.val).t = (s.eng e.val).t ∧ (t.eng e.val).pc = (s.eng e.val).pc ∧ (t.eng e.val).mem = (s.eng e.val).mem) ∧
    (∀ d, (s.eng e.val).df = some d → s.rnFault e.val v 0x2B3 d.opmod.toNat = none → ∃ t, exec (.dfDivComplete e v) s = .next t ∧
      OnlyEngine s t e.val ∧ (t.eng e.val).df = none ∧
      (if d.handler then (t.eng e.val).hand else (t.eng e.val).prog) =
        { (if d.handler then (s.eng e.val).hand else (s.eng e.val).prog) with
          dfr := ⟨d.res.1, decide (d.opmod.toNat % 2 = 1)⟩ } ∧
      (t.eng e.val).cr.aflag = (s.eng e.val).cr.aflag ||| BitVec.ofNat 64 d.res.2 ∧
      (t.eng e.val).t = (s.eng e.val).t ∧ (t.eng e.val).pc = (s.eng e.val).pc ∧ (t.eng e.val).mem = (s.eng e.val).mem)

/-- R281 to R283, R285, R297, R249: each string-class trigger of a bundle starts its operation, by way of SAUX, when IP is
0 and its control registers are legal, or resumes it when IP is 1; the bundle stays at its program address until its
operation ends. An ST operation with SCNT 0 completes at once, behind its microwords, none of which fails (R409, R416). -/
def Obligations.StringStart : Prop :=
  ∀ row ∈ ([(Instr.stMove, 0x310), (Instr.stCmp, 0x311), (Instr.stScan, 0x312), (Instr.stXlat, 0x313),
      (Instr.stFill, 0x314), (Instr.edEdit, 0x330), (Instr.cvPack, 0x2D4), (Instr.cvUnpk, 0x2D5),
      (Instr.cvMdec, 0x2D6)] : List ((EngId → Bundle → Env → Instr) × Nat)),
    ∀ (s s1 : State) (e : EngId) (b : Bundle) (v : Env) (m : Mv),
      Issues s e.val b v s1 → Triggers s1 e.val b m → m.dst = row.2 →
      (s1.eng e.val).cr.ip = true ∨ strBad (s1.eng e.val).cr m.dst = false →
      let c := (s1.eng e.val).cr
      let c' := if c.ip then c else c.strStart m.dst
      (strReady c m.dst = false → exec (row.1 e b v) s = .next (s1.modEng e.val fun g => { g with
        cr := c', seen := s1.modeAt e.val, str := some {
          insn := .rind b, port := BitVec.ofNat 12 m.dst, opmod := BitVec.ofNat 9 m.op, vals := valsOf (s1.moves e.val b),
          micro := { at_ := rnEntry m.dst m.op c.ip } } })) ∧
      (strReady c m.dst = true →
        (let run : StrRun := {
          insn := .rind b, port := BitVec.ofNat 12 m.dst, opmod := BitVec.ofNat 9 m.op, vals := valsOf (s1.moves e.val b),
          micro := { at_ := rnEntry m.dst m.op c.ip } }
         ∀ sub ea n, (s1.modEng e.val fun g => { g with cr := c', seen := s1.modeAt e.val, str := some run }).rnIter e.val v run
           ≠ .fail sub ea n) →
        ∃ t, exec (row.1 e b v) s = .next t ∧ OnlyEngine s1 t e.val ∧
        (t.eng e.val).str = none ∧ (t.eng e.val).cr.ip = false ∧ (t.eng e.val).mem = (s1.eng e.val).mem ∧
        (t.eng e.val).nb = (s1.eng e.val).nb + 1)

/-- R192 to R195, R224, R400: BR.t.jmp and BR.t.jmpf with a legal target leave the delay bundle next and the target after it;
BR.t.call and BR.t.callf also push the return record of the bundle after the delay bundle at SB:SP − 8, in Salvage on the
Salvage stack; BR.t.ret pops the record there, adds 8 to SP, and branches to the record's bank and offset after its delay
bundle. -/
def Obligations.Branches : Prop :=
  (∀ (s s1 : State) (e : EngId) (b : Bundle) (v : Env) (m : Mv), Issues s e.val b v s1 → Triggers s1 e.val b m →
     let x := (s1.eng e.val).cr.esw
     let near := if m.op % 2 = 1 then ((s1.eng e.val).pc.toNat + 16 * (m.val.toNat % 2 ^ 32)) % 2 ^ 32 else m.val.toNat % 2 ^ 32
     let goes (t : State) (bank off : Nat) : Prop :=
       BundleFrame s1 t e.val b 0 ∧ (t.eng e.val).ports = s1.latched e.val b ∧
       (t.eng e.val).pc = (s1.eng e.val).pc + 16 ∧ (t.eng e.val).bt = BitVec.ofNat 48 (bank * 2 ^ 32 + off) ∧
       (t.eng e.val).cr.esw.bp = true
     (m.dst = 0x390 → targetBad x.salv near = false → ∃ t, exec (.brJmp e b v) s = .next t ∧ goes t x.cb.toNat near) ∧
     (m.dst = 0x393 → x.salv = false → m.val.toNat % 16 = 0 → ∃ t, exec (.brJmpf e b v) s = .next t ∧
       goes t (m.val.toNat / 2 ^ 32 % 2 ^ 16) (m.val.toNat % 2 ^ 32))) ∧
  (∀ row ∈ ([(Instr.brCall, 0x391, false), (Instr.brCallf, 0x394, true)] : List ((EngId → Bundle → Env → Instr) × Nat × Bool)),
     ∀ (s s1 : State) (e : EngId) (b : Bundle) (v : Env) (m : Mv),
       Issues s e.val b v s1 → Triggers s1 e.val b m → m.dst = row.2.1 →
       let c := (s1.eng e.val).cr
       let near := if m.op % 2 = 1 then ((s1.eng e.val).pc.toNat + 16 * (m.val.toNat % 2 ^ 32)) % 2 ^ 32 else m.val.toNat % 2 ^ 32
       let off := if row.2.2 then m.val.toNat % 2 ^ 32 else near
       let bank := if row.2.2 then m.val.toNat / 2 ^ 32 % 2 ^ 16 else c.esw.cb.toNat
       let rec_ := retRecord c.esw.cb.toNat ((s1.eng e.val).pc + 32).toNat
       let goes (t : State) : Prop := (t.eng e.val).cr.sp = c.sp - 8 ∧ (t.eng e.val).pc = (s1.eng e.val).pc + 16 ∧
         (t.eng e.val).bt = BitVec.ofNat 48 (bank * 2 ^ 32 + off) ∧ (t.eng e.val).cr.esw.bp = true ∧
         (t.eng e.val).ports = s1.latched e.val b ∧
         (t.eng e.val).t = ((s1.eng e.val).regMoves (s1.moves e.val b)).t
       targetBad c.esw.salv off = false →
       (c.esw.salv = true → row.2.2 = false → 0x1000 ≤ (c.sp - 8).toNat → (c.sp - 8).toNat + 8 ≤ 0x2000 →
         ∃ t, exec (row.1 e b v) s = .next t ∧ OnlyEngine s1 t e.val ∧ goes t ∧
           (t.eng e.val).mem = { (s1.eng e.val).mem with
             sram := writeBytes (s1.eng e.val).mem.sram (c.sp - 8).toNat rec_ }) ∧
       (∀ s2 pl s3, c.esw.salv = false →
         s1.access e.val (ueLines v) (s1.ctx e.val) .store c.esw.sb.toNat (c.sp - 8).toNat 8 1 = (s2, .ok pl) →
         (s2.begun e.val (s1.moves e.val b)).store e.val pl (toBytes 8 (ofBytes rec_)) = .ok s3 →
         ∃ t, exec (row.1 e b v) s = .next t ∧ OnlyEngine s3 t e.val ∧
           (t.eng e.val).cr.sp = c.sp - 8 ∧ (t.eng e.val).bt = BitVec.ofNat 48 (bank * 2 ^ 32 + off) ∧
           (t.eng e.val).pc = (s3.eng e.val).pc + 16 ∧
           (t.eng e.val).cr.esw.bp = true ∧ (t.eng e.val).mem = (s3.eng e.val).mem)) ∧
  (∀ (s s1 : State) (e : EngId) (b : Bundle) (v : Env) (m : Mv),
     Issues s e.val b v s1 → Triggers s1 e.val b m → m.dst = 0x392 →
     let c := (s1.eng e.val).cr
     let goes (t : State) (r : List Byte) : Prop := (t.eng e.val).cr.sp = c.sp + 8 ∧
       (t.eng e.val).bt = BitVec.ofNat 48 (numAt r 2 2 * 2 ^ 32 + numAt r 4 4) ∧ (t.eng e.val).cr.esw.bp = true
     (let r := readBytes (s1.eng e.val).mem.sram c.sp.toNat 8
      c.esw.salv = true → 0x1000 ≤ c.sp.toNat → c.sp.toNat + 8 ≤ 0x2000 → numAt r 0 2 = 0 →
       targetBad true (numAt r 4 4) = false →
       ∃ t, exec (.brRet e b v) s = .next t ∧ OnlyEngine s1 t e.val ∧ goes t r ∧
         (t.eng e.val).pc = (s1.eng e.val).pc + 16 ∧ (t.eng e.val).mem = (s1.eng e.val).mem) ∧
     (∀ s2 pl r s3, c.esw.salv = false →
       s1.access e.val (ueLines v) (s1.ctx e.val) .load c.esw.sb.toNat c.sp.toNat 8 1 = (s2, .ok pl) → s2.waits e.val v pl = false →
       (s2.load e.val pl 8).map Prod.snd = .ok r → numAt r 0 2 = 0 → targetBad false (numAt r 4 4) = false →
       (s2.begun e.val (s1.moves e.val b)).load e.val pl 8 = .ok s3 →
       ∃ t, exec (.brRet e b v) s = .next t ∧ OnlyEngine s3.1 t e.val ∧ goes t r ∧
         (t.eng e.val).pc = (s3.1.eng e.val).pc + 16))

/-- R188, R343, R354, R372: each load trigger of a bundle whose access passes its checks and does not wait puts the bytes that
the access reads, zero-extended, into the result port of its unit; each store trigger whose access passes its checks stores
the low bytes of its operand port, and nothing but the stored bytes and what the bundle's other moves write changes. -/
def Obligations.LoadStore : Prop :=
  (∀ row ∈ ([(Instr.lsLdb, 0, 1, 1), (Instr.lsLdh, 1, 2, 2), (Instr.lsLdw, 2, 4, 4), (Instr.lsLdd, 3, 8, 8),
       (Instr.lsLdt, 4, 12, 4)] : List ((EngId → Bundle → Env → Instr) × Nat × Nat × Nat)),
     ∀ (s s1 s2 s3 : State) (e : EngId) (b : Bundle) (v : Env) (m : Mv) (pl : Place) (bs : List Byte),
       Issues s e.val b v s1 → Triggers s1 e.val b m → (m.dst = 0x350 + row.2.1 ∨ m.dst = 0x370 + row.2.1) →
       s1.access e.val (ueLines v) (s1.ctx e.val) .load ((s1.eng e.val).b.getD (m.op % 8) 0).toNat
         ((m.val.toNat % 2 ^ 32 + 4 * (m.op / 8)) % 2 ^ 32) row.2.2.1 row.2.2.2 = (s2, .ok pl) →
       s2.waits e.val v pl = false →
       (s2.begun e.val (s1.moves e.val b)).load e.val pl row.2.2.1 = .ok (s3, bs) →
       ∃ t, exec (row.1 e b v) s = .next t ∧ OnlyEngine s3 t e.val ∧ UnitChange (s3.eng e.val) (t.eng e.val) 0 ∧
         (t.eng e.val).cr.aflag = (s3.eng e.val).cr.aflag ∧
         (t.eng e.val).ports = (if m.dst < 0x370 then { (s3.eng e.val).ports with ls0r := BitVec.ofNat 96 (ofBytes bs) }
           else { (s3.eng e.val).ports with ls1r := BitVec.ofNat 96 (ofBytes bs) })) ∧
  (∀ row ∈ ([(Instr.lsStb, 0, 1, 1), (Instr.lsSth, 1, 2, 2), (Instr.lsStw, 2, 4, 4), (Instr.lsStd, 3, 8, 8),
       (Instr.lsStt, 4, 12, 4)] : List ((EngId → Bundle → Env → Instr) × Nat × Nat × Nat)),
     ∀ (s s1 s2 s3 : State) (e : EngId) (b : Bundle) (v : Env) (m : Mv) (pl : Place),
       Issues s e.val b v s1 → Triggers s1 e.val b m → (m.dst = 0x358 + row.2.1 ∨ m.dst = 0x378 + row.2.1) →
       s1.access e.val (ueLines v) (s1.ctx e.val) .store ((s1.eng e.val).b.getD (m.op % 8) 0).toNat
         ((m.val.toNat % 2 ^ 32 + 4 * (m.op / 8)) % 2 ^ 32) row.2.2.1 row.2.2.2 = (s2, .ok pl) →
       let q := s1.latched e.val b
       (s2.begun e.val (s1.moves e.val b)).store e.val pl
         (toBytes row.2.2.1 ((if m.dst < 0x370 then q.ls0o else q.ls1o).toNat % 2 ^ (8 * row.2.2.1))) = .ok s3 →
       ∃ t, exec (row.1 e b v) s = .next t ∧ OnlyEngine s3 t e.val ∧ UnitChange (s3.eng e.val) (t.eng e.val) 0 ∧
         (t.eng e.val).cr.aflag = (s3.eng e.val).cr.aflag ∧ (t.eng e.val).ports = (s3.eng e.val).ports)

/-- R343, R354, R162: after a store that is carried out, the engine's own loads see the bytes stored where they were
stored, and every other byte as before, in scratch and in memory outside the ledger alike; memory itself and every other
engine are unchanged. -/
def Obligations.StoreVisible : Prop :=
  ∀ (s s' : State) (e : Nat) (bs : List Byte),
    (∀ o, Bytes.wf (s.eng e).mem.scratch = true → s.store e (.scratch o) bs = .ok s' →
      OnlyEngine s s' e ∧ s'.mem = s.mem ∧
      (∀ i, i < bs.length → readByte (s'.eng e).mem.scratch (o + i) = bs.getD i 0) ∧
      (∀ a, (a < o ∨ o + bs.length ≤ a) → readByte (s'.eng e).mem.scratch a = readByte (s.eng e).mem.scratch a)) ∧
    (∀ p : Part, p.idx = 0 → p.len = bs.length → bit p.leaf 9 = false → s.store e (.parts [p]) bs = .ok s' →
      OnlyEngine s s' e ∧ s'.mem = s.mem ∧ (s'.eng e).mem.scratch = (s.eng e).mem.scratch ∧
      (∀ i, i < bs.length → s'.ownByte e (p.pa + i) = bs.getD i 0) ∧
      (∀ a, (a < p.pa ∨ p.pa + bs.length ≤ a) → s'.ownByte e a = s.ownByte e a))

/-- R382, R383, R400, R83, R222: BR.t.retx takes its bundle's moves and pending values, and then loads the engine from the TSB
that TSBR names, in Salvage from the Salvage TSB, when the image is legal; with no divide abandoned in it, nothing else happens,
but that inside a transaction a condition that its own bundle has raised rolls the attempt back before user code runs. -/
def Obligations.ReturnFromException : Prop :=
  ∀ (s s1 s3 s4 : State) (e : EngId) (b : Bundle) (v : Env) (m : Mv) (img : List Byte),
    Issues s e.val b v s1 → Triggers s1 e.val b m → m.dst = 0x395 →
    let u := ((s1.begun e.val (s1.moves e.val b)).counted e.val).syncEvent e.val
    let c := (u.eng e.val).cr
    let w : W64 := BitVec.ofNat 64 (numAt img 0 8)
    let cause : W64 := BitVec.ofNat 64 (numAt img 0x18 8)
    let osp := numAt img 0x34 4 / 4 * 4
    (c.esw.salv = true ∧ s4 = u ∧ img = readBytes (u.eng e.val).mem.sram 0 512 ∨
      c.esw.salv = false ∧ bit c.tsbr 0 = true ∧ ∃ pl,
        u.access e.val (ueLines v) (u.supCtx e.val) .load (fld c.tsbr 47 32) (tsbOff c.tsbr) 512 1 = (s3, .ok pl) ∧
        s3.load e.val pl 512 = .ok (s4, img)) →
    eswBad w = false → bit cause 43 = false → bit cause 42 = false →
    (bit w 0 = true ∨ bit w 10 = false ∧ bit w 9 = false ∧ bit cause 47 = false ∧ bit cause 46 = false ∧
      c.oslo.toNat ≤ osp ∧ osp ≤ c.oshi.toNat ∧ (osp - c.oslo.toNat) % 12 = 0) →
    let t := s4.modEng e.val fun g => g.loadTsb img
    exec (.brRetx e b v) s = .next (if (t.eng e.val).cr.esw.priv = false ∧ (t.eng e.val).att.isSome = true ∧
      ((t.eng e.val).imp.isSome = true ∨ (t.eng e.val).owes = true) then t.rollBack e.val else t)

/-- R374, R382 step 4, R383: RETX loads from the image that an entry wrote exactly what the entry saved: T16 to T31, the
guard and palette registers, the program address, the delay bundle's target, the port set in use, ESW but for TX, and the
saved control registers; T0 to T15 and every other register keep their values. -/
def Obligations.TsbRoundTrip : Prop :=
  ∀ (s : State) (e : Nat) (x : Entry) (h : Eng),
    let g := s.eng e
    g.t.length = 32 → g.b.length = 8 → g.p.getLsbD 0 = true → s.prForced e = false → x.ilen < 256 →
    g.cr.sp.toNat % 4 = 0 → g.cr.osp.toNat % 4 = 0 → g.cr.ls.toNat % 16 = 0 → g.cr.le.toNat % 16 = 0 →
    h.loadTsb (s.tsbImage e x none) = { h with
      t := h.t.take 16 ++ g.t.drop 16, p := g.p, b := g.b, pc := g.pc, bt := if g.cr.esw.bp then g.bt else 0,
      hset := g.hset, cr := { h.cr with
        esw := { g.cr.esw with tx := h.cr.esw.tx, salv := false }, sp := g.cr.sp, osp := g.cr.osp, ls := g.cr.ls,
        le := g.cr.le, lc := g.cr.lc, scnt := g.cr.scnt, ssrc := g.cr.ssrc, sdst := g.cr.sdst, saux := g.cr.saux } }

/-- R198 to R200: RP.t.loop with a legal body starts the repeat when its count is not 0, and skips the body when it
is. -/
def Obligations.RepeatStart : Prop :=
  ∀ (s s1 s2 : State) (e : EngId) (b : Bundle) (v : Env) (m : Mv) (body : List Bundle),
    Issues s e.val b v s1 → Triggers s1 e.val b m → m.dst = 0x3B0 → (s1.eng e.val).cr.esw.la = false →
    State.fetchBody e.val (ueLines v) (m.op % 64 + 1) ((s1.eng e.val).pc + 16).toNat s1 = (s2, .ok body) → bodyBad body = false →
    let n := m.val.toNat % 2 ^ 32
    let u := s2.begun e.val (s1.moves e.val b)
    ∃ t, exec (.rpLoop e b v) s = .next t ∧ OnlyEngine u t e.val ∧ (t.eng e.val).ports = (u.eng e.val).ports ∧
      (t.eng e.val).t = (u.eng e.val).t ∧ (t.eng e.val).p = (u.eng e.val).p ∧ (t.eng e.val).b = (u.eng e.val).b ∧
      (t.eng e.val).mem = (u.eng e.val).mem ∧
      (n ≠ 0 → (t.eng e.val).cr.esw.la = true ∧ (t.eng e.val).cr.ls = (s1.eng e.val).pc + 16 ∧
        (t.eng e.val).cr.le = (s1.eng e.val).pc + BitVec.ofNat 32 (16 * (m.op % 64 + 1)) ∧
        (t.eng e.val).cr.lc = BitVec.ofNat 32 n) ∧
      (n = 0 → (t.eng e.val).cr.esw.la = (s1.eng e.val).cr.esw.la ∧
        (t.eng e.val).pc = (s1.eng e.val).pc + BitVec.ofNat 32 (16 * (m.op % 64 + 1)) + 16)

/-- R202, R90, R203, R77, R78: PX.t.begin and PX.t.peek outside a transaction hold the engine at the bundle to wait for a
dispatch, PX.t.peek for a peek only, with the values its moves read, which take effect at the dispatch; PX.t.seal inside a
transaction ends the attempt with the outcome of OPMOD and the payload that its operand names in scratch, and PX.t.yield of
a posting abandons the attempt for a solo run, after the bundle's moves have taken effect. That a seal or a yield stands though
its bundle brings the attempt's count to its limit (R79), and that the waiting bundle is held with the values it read, are the
model's choices (log 16). -/
def Obligations.Transactions : Prop :=
  (∀ row ∈ ([(Instr.pxBegin, 0x3D0), (Instr.pxPeek, 0x3D1)] : List ((EngId → Bundle → Env → Instr) × Nat)),
     ∀ (s s1 : State) (e : EngId) (b : Bundle) (v : Env) (m : Mv),
       Issues s e.val b v s1 → Triggers s1 e.val b m → m.dst = row.2 → (s1.eng e.val).cr.esw.tx = 0 →
       m.val.toNat % 16 = 0 →
       exec (row.1 e b v) s = .next (s1.modEng e.val fun g => { g with wait := some {
         resume := m.val.setWidth 32, esw := (s1.eng e.val).cr.esw, peekOnly := decide (row.2 = 0x3D1), bundle := b,
         vals := valsOf (s1.moves e.val b) } })) ∧
  (∀ (s s1 : State) (e : EngId) (b : Bundle) (v : Env) (m : Mv), Issues s e.val b v s1 → Triggers s1 e.val b m →
     let u := (s1.begun e.val (s1.moves e.val b)).counted e.val
     let t := m.val.toNat
     (m.dst = 0x3D2 → (s1.eng e.val).cr.esw.tx ≠ 0 → t % 2 ^ 64 / 2 ^ 43 = 0 → t % 2 ^ 32 / 2 ^ 14 = 0 →
       t / 2 ^ 32 % 2 ^ 11 ≤ 1408 → t % 2 ^ 14 + t / 2 ^ 32 % 2 ^ 11 ≤ 16384 →
       exec (.pxSeal e b v) s = .next (u.seal e.val (m.op % 4)
         (readBytes (s1.eng e.val).mem.scratch (t % 2 ^ 14) (t / 2 ^ 32 % 2 ^ 11)))) ∧
     (m.dst = 0x3D3 → (s1.eng e.val).cr.esw.tx = 1 → exec (.pxYield e b v) s = .next (u.goSolo e.val)))

/-- R205, R349, R352, R166: a SY trigger with no divide running writes the engine's store buffer to memory; SY.t.syncm and
SY.t.iflush also wait until what the engine wrote and what its loads can have read is performed everywhere. SY.t.sync and
SY.t.syncm apply every pending control register value, and SY.t.iflush invalidates the instruction cache. -/
def Obligations.Synchronises : Prop :=
  ∀ row ∈ ([(Instr.sySync, 0), (Instr.sySyncm, 1), (Instr.syIflush, 2)] : List ((EngId → Bundle → Env → Instr) × Nat)),
    ∀ (s s1 : State) (e : EngId) (b : Bundle) (v : Env) (m : Mv),
      Issues s e.val b v s1 → Triggers s1 e.val b m → m.dst = 0x3F0 + row.2 →
      (s1.eng e.val).dd = none → (s1.eng e.val).df = none →
      let d := (s1.begun e.val (s1.moves e.val b)).sbDrain e.val
      let u := if row.2 = 0 then d else d.landSeen e.val
      ∃ t, exec (row.1 e b v) s = .next t ∧ OnlyEngine u t e.val ∧ (t.eng e.val).t = (u.eng e.val).t ∧
        (t.eng e.val).ports = (u.eng e.val).ports ∧
        (t.eng e.val).mem = (if row.2 = 2 then { (u.eng e.val).mem with icache := [] } else (u.eng e.val).mem) ∧
        (t.eng e.val).sync = (if row.2 = 2 then (u.eng e.val).sync else []) ∧
        (row.2 ≠ 2 → (t.eng e.val).cr.xvec = ((u.syncEvent e.val).eng e.val).cr.xvec ∧
          (t.eng e.val).cr.ptroot = ((u.syncEvent e.val).eng e.val).cr.ptroot ∧
          (t.eng e.val).cr.esw.sb = ((u.syncEvent e.val).eng e.val).cr.esw.sb)

/-- R180, R140, R184: a bundle of plain moves writes operand ports, tally, guard and palette registers, and nothing else
but what its retirement changes; a bundle whose only move goes to one tally register writes exactly that register. -/
def Obligations.PlainMoves : Prop :=
  ∀ (s s1 : State) (e : EngId) (b : Bundle) (v : Env), Issues s e.val b v s1 →
    (s1.moves e.val b).all (·.plain b) = true →
    ∃ t, exec (.bundleMove e b v) s = .next t ∧ BundleFrame s1 t e.val b 0 ∧
      (t.eng e.val).ports = s1.latched e.val b ∧ (t.eng e.val).cr.aflag = (s1.eng e.val).cr.aflag ∧
      (t.eng e.val).nb = (s1.eng e.val).nb + 1 ∧
      (∀ m, s1.moves e.val b = [m] → isT m.dst = true → m.pair = false → (s1.eng e.val).t.length = 32 →
        (t.eng e.val).t.getD (m.dst - 0x20) 0 = m.val.setWidth 96 ∧
        (∀ i, i ≠ m.dst - 0x20 → (t.eng e.val).t.getD i 0 = (s1.eng e.val).t.getD i 0) ∧
        (t.eng e.val).b = (s1.eng e.val).b ∧
        ∀ i, (t.eng e.val).p.getLsbD i = (s1.eng e.val).p.getLsbD i) ∧
      ((s1.eng e.val).cr.esw.bp = false → (s1.eng e.val).cr.esw.la = false → (t.eng e.val).pc = (s1.eng e.val).pc + 16) ∧
      ((s1.eng e.val).cr.esw.bp = true → (t.eng e.val).pc = (s1.eng e.val).bt.setWidth 32 ∧
        (t.eng e.val).cr.esw.cb = ((s1.eng e.val).bt >>> (32 : Nat)).setWidth 16 ∧ (t.eng e.val).cr.esw.bp = false)

/-- R166, R167, R89, R145: a bundle whose only move goes to a control register, and passes its check, makes the value of a
synchronising register pending, writes any other register at once, and in a transaction discards a write of a register of
R89. So it does beside an ALU trigger and plain moves, which do what they do without it (R180). -/
def Obligations.ControlWrite : Prop :=
  (∀ (s s1 : State) (e : EngId) (b : Bundle) (v : Env) (m : Mv), Issues s e.val b v s1 → s1.moves e.val b = [m] →
    isCr m.dst = true → m.pairBad (slotsOf b) = false →
    let n := m.dst - 0x100
    let w : W64 := m.val.setWidth 64
    s1.crCheck e.val n w = none →
    ∃ t, exec (.crWrite e b v) s = .next t ∧ OnlyEngine s1 t e.val ∧
      (t.eng e.val).t = (s1.eng e.val).t ∧ (t.eng e.val).p = (s1.eng e.val).p ∧ (t.eng e.val).b = (s1.eng e.val).b ∧
      (t.eng e.val).mem = (s1.eng e.val).mem ∧ (t.eng e.val).ports = (s1.eng e.val).ports ∧
      ControlPut s1 t e.val n w) ∧
  (∀ (s s1 : State) (e : EngId) (b : Bundle) (v : Env) (m x : Mv) (l1 l2 l3 : List Mv), Issues s e.val b v s1 →
    (0x210 ≤ m.dst ∧ m.dst ≤ 0x21B ∨ 0x230 ≤ m.dst ∧ m.dst ≤ 0x23B) → isCr x.dst = true →
    m.pairBad (slotsOf b) = false → x.pairBad (slotsOf b) = false → (l1 ++ l2 ++ l3).all (·.plain b) = true →
    (s1.moves e.val b = l1 ++ m :: l2 ++ x :: l3 ∨ s1.moves e.val b = l1 ++ x :: l2 ++ m :: l3) →
    s1.crCheck e.val (x.dst - 0x100) (x.val.setWidth 64) = none →
    let q := s1.latched e.val b
    let g := (s1.eng e.val).regMoves (s1.moves e.val b)
    let r := aluOp (m.dst % 16) (if m.dst < 0x230 then q.alu0o else q.alu1o) (m.val.setWidth 64)
    ∃ t, exec (.crWrite e b v) s = .next t ∧ OnlyEngine s1 t e.val ∧ (t.eng e.val).t = g.t ∧ (t.eng e.val).b = g.b ∧
      (t.eng e.val).mem = (s1.eng e.val).mem ∧
      (t.eng e.val).ports = (if m.dst < 0x230 then { q with alu0r := r } else { q with alu1r := r }) ∧
      ControlPut s1 t e.val (x.dst - 0x100) (x.val.setWidth 64))

/-- R234, R241, R247: DA add and sub of valid tallies give a valid tally of the true sum or difference where its magnitude
fits N digits, and Decimal Overflow where it does not; neg, abs and the six conditions of cmp are those of the values; CV d2b gives back every
binary integer that CV b2d converted, signed and unsigned, with no condition. -/
def Obligations.TallyValues : Prop :=
  (∀ (o t : Tally) (m : Nat), tOk o = true → tOk t = true →
     let n := if m % 32 = 0 then 23 else m % 32
     let sums (r : URes) (v : Int) : Prop :=
       (v.natAbs < 10 ^ n → r.cond = none ∧ tOk r.r = true ∧ tVal r.r = v) ∧
       (10 ^ n ≤ v.natAbs → r.cond = some .overflow) ∧ r.gval = decide (v < 0)
     (n ≤ 23 → sums (daAdd o t m) (tVal o + tVal t) ∧ sums (daSub o t m) (tVal o - tVal t)) ∧
     (tOk (daNeg t).r = true ∧ tVal (daNeg t).r = -(tVal t)) ∧
     (tOk (daAbs t m).r = true ∧ tVal (daAbs t m).r = (tVal t).natAbs) ∧
     (∀ c < 6, (daCmp o t (16 * c)).r = 0 ∨ (daCmp o t (16 * c)).r = 1) ∧
     ((daCmp o t 0x00).r = 1 ↔ tVal o = tVal t) ∧ ((daCmp o t 0x10).r = 1 ↔ tVal o ≠ tVal t) ∧
     ((daCmp o t 0x20).r = 1 ↔ tVal o < tVal t) ∧ ((daCmp o t 0x30).r = 1 ↔ tVal o ≤ tVal t) ∧
     ((daCmp o t 0x40).r = 1 ↔ tVal t < tVal o) ∧ ((daCmp o t 0x50).r = 1 ↔ tVal t ≤ tVal o)) ∧
  (∀ (w : W64) (m : Nat), tOk (cvB2d w m).r = true ∧ (cvD2b (cvB2d w m).r m).cond = none ∧
     (cvD2b (cvB2d w m).r m).r = w.setWidth 96 ∧ tVal (cvB2d w m).r = (if m % 2 = 1 then (w.toNat : Int) else w.toInt))

/-- R240, R243, R244: MP0 and MP1 of valid tallies hold, 23 digits each, the exact product, or for a scale its quotient by the power
of ten, rounded. A DD divide of valid tallies by a non-zero divisor whose quotient does not overflow gives a quotient and a
remainder with Q × t + R = o × 10^S = X and |R| below |t|, of at most half of |t| in the half modes, ties to even, away from
zero or toward it, and else of the sign that the mode gives (R240); a divisor of zero is Decimal Divide by Zero. -/
def Obligations.ProductsQuotients : Prop :=
  (∀ (o t : Tally) (m d : Nat), tOk o = true → tOk t = true →
     let r := dmMul o t m d
     r.cond = none ∧ tOk r.r = true ∧ tOk r.r2 = true ∧
       tVal r.r * 10 ^ 23 + tVal r.r2 = roundInt (rmOf (m / 32 % 8) d) (tVal o * tVal t) (10 ^ (m % 32)) ∧
       (m % 32 = 0 → tVal r.r * 10 ^ 23 + tVal r.r2 = tVal o * tVal t)) ∧
  (∀ (o t : Tally) (m d : Nat), tOk o = true → tOk t = true →
     let r := ddDiv o t m d
     (tVal t = 0 → r.cond = some .divZero) ∧
     (tVal t ≠ 0 → r.cond = none ∨ r.cond = some .overflow) ∧
     (r.cond = none →
       let x := tVal o * 10 ^ (m % 32)
       let q := tVal r.r
       let rem := tVal r.r2
       let a := 2 * rem.natAbs
       let md := rmOf (m / 32 % 8) d
       tOk r.r = true ∧ tOk r.r2 = true ∧ q * tVal t + rem = x ∧ rem.natAbs < (tVal t).natAbs ∧
       (md < 3 → a ≤ (tVal t).natAbs) ∧
       (a = (tVal t).natAbs → (md = 0 → q % 2 = 0) ∧ (md = 1 → rem * x < 0) ∧ (md = 2 → 0 < rem * x)) ∧
       (md = 3 → rem * x ≤ 0) ∧ (md = 4 → 0 ≤ rem * x) ∧ (md = 5 → rem * tVal t ≤ 0) ∧ (md = 6 → 0 ≤ rem * tVal t) ∧
       (md = 7 → (rem * x < 0 → (q.natAbs - 1) % 5 = 0) ∧ (0 < rem * x → q.natAbs % 5 ≠ 0))))

/-- R68, R211 to R214, R216, R225: each Curd instruction that only moves elements, operand bytes or a register to the stack
pops its operands, pushes its results, and continues at the next instruction, with nothing else changed; TURN pushes the
turn in bits 63:16 of CR 0x12, LIT the 12 bytes at its address, RDRND's and RDFRND's writers set the rounding modes, CLRFLAG
clears the flags named, and SPADJ moves SP. At a depth above 16 an instruction stores the elements that leave the registers in
their memory slots before it pushes, and loads back those that return (Stacked, moved). -/
def Obligations.CurdStack : Prop :=
  (∀ row ∈ ([
       ((fun e _ v => .nop e v), 0x00, 0, 0, fun _ _ _ _ => []), ((fun e _ v => .drop e v), 0x01, 1, 0, fun _ _ _ _ => []),
       ((fun e _ v => .dup e v), 0x02, 1, 2, fun _ _ _ l => [l.getD 0 0, l.getD 0 0]),
       ((fun e _ v => .swap e v), 0x03, 2, 2, fun _ _ _ l => [l.getD 1 0, l.getD 0 0]),
       ((fun e _ v => .over e v), 0x04, 2, 3, fun _ _ _ l => [l.getD 0 0, l.getD 1 0, l.getD 0 0]),
       ((fun e _ v => .rot e v), 0x05, 3, 3, fun _ _ _ l => [l.getD 1 0, l.getD 2 0, l.getD 0 0]),
       ((fun e i v => .pick e (i.setWidth 8) v), 0x06, 0, 1,
         fun d s i _ => [s.t.getD (elemReg (d - 1 - i % 16)) 0]),
       ((fun e _ v => .depth e v), 0x07, 0, 1, fun d _ _ _ => [BitVec.ofNat 96 d]),
       ((fun e i v => .pushB8 e (i.setWidth 8) v), 0x10, 0, 1,
         fun _ _ i _ => [((BitVec.ofNat 8 i).signExtend 64).setWidth 96]),
       ((fun e i v => .pushB32 e i v), 0x11, 0, 1, fun _ _ i _ => [((BitVec.ofNat 32 i).signExtend 64).setWidth 96]),
       ((fun e i v => .pushD e i v), 0x12, 0, 1, fun _ _ i _ => [BitVec.ofNat 96 i]),
       ((fun e i v => .mkva e (i.setWidth 8) v), 0x17, 1, 1,
         fun _ s i l => [BitVec.ofNat 96 ((s.b.getD (i % 8) 0).toNat * 2 ^ 32 + (l.getD 0 0).toNat % 2 ^ 32)]),
       ((fun e _ v => .rdrnd e v), 0x70, 0, 1, fun _ s _ _ => [s.cr.esw.drnd.setWidth 96]),
       ((fun e _ v => .rdfrnd e v), 0x72, 0, 1, fun _ s _ _ => [s.cr.esw.dfrnd.setWidth 96]),
       ((fun e _ v => .rdflag e v), 0x74, 0, 1, fun _ s _ _ => [s.cr.aflag.setWidth 96])] :
       List ((EngId → BitVec 32 → Env → Instr) × Nat × Nat × Nat × (Nat → Eng → Nat → List Tally → List Tally))),
     ∀ (s s1 s2 s4 : State) (e : EngId) (i : BitVec 32) (v : Env) (sp fl : List (Nat × Place)),
       let op := row.2.1
       let imm := if op = 0x11 ∨ op = 0x12 then i.toNat else if op = 0x06 ∨ op = 0x10 ∨ op = 0x17 then i.toNat % 256 else 0
       let d := (s1.eng e.val).cr.depth
       let k := row.2.2.1
       let g := s2.eng e.val
       CurdReady s e.val v op imm false s1 → Stacked s1 e.val k row.2.2.2.1 v s2 sp fl →
       fl.any (fun p => s2.waits e.val v p.2) = false → (op = 0x06 → imm % 16 < d) →
       (op = 0x74 → g.dd = none ∧ g.df = none) → s2.moved e.val g.t sp fl = .ok s4 →
       exec (row.1 e i v) s = .next (s4.modEng e.val fun h =>
         h.pushedTo (d - k) ((curdLen op).getD 1) (row.2.2.2.2 d g imm (g.popped d k)))) ∧
  (∀ (s s1 s2 s3 s4 : State) (e : EngId) (v : Env) (sp fl : List (Nat × Place)),
     let d := (s1.eng e.val).cr.depth
     let g := s2.eng e.val
     let w := lo64 ((g.popped d 1).getD 0 0)
     let ready (op imm k m : Nat) : Prop := CurdReady s e.val v op imm false s1 ∧ Stacked s1 e.val k m v s2 sp fl ∧
       fl.any (fun p => s3.waits e.val v p.2) = false ∧ s3.moved e.val (s3.eng e.val).t sp fl = .ok s4
     (s3 = s2 → ready 0x76 0 0 1 → exec (.turn e v) s =
       .next (s4.modEng e.val fun h => h.pushedTo d 1 [BitVec.ofNat 96 (fld (s2.crRead e.val 0x12) 63 16)])) ∧
     (∀ (i : BitVec 16) p, s2.fetchAt e.val (ueLines v) (offAdd g.pc.toNat i.toInt) 12 = (s3, .ok p) →
       ready 0x13 i.toNat 0 1 → exec (.lit e i v) s =
         .next (s4.modEng e.val fun h => h.pushedTo d 3 [BitVec.ofNat 96 (ofBytes p)])) ∧
     (s3 = s2 → ready 0x71 0 1 0 → w.toNat < 8 → exec (.wdrnd e v) s =
       .next (s4.modEng e.val fun h => let h := h.pushedTo (d - 1) 1 []
         { h with cr := { h.cr with esw := { h.cr.esw with drnd := w.setWidth 3 } } })) ∧
     (s3 = s2 → ready 0x73 0 1 0 → w.toNat < 5 → exec (.wdfrnd e v) s =
       .next (s4.modEng e.val fun h => let h := h.pushedTo (d - 1) 1 []
         { h with cr := { h.cr with esw := { h.cr.esw with dfrnd := w.setWidth 3 } } })) ∧
     (s3 = s2 → ready 0x75 0 1 0 → w &&& BitVec.ofNat 64 (2 ^ 64 - 1 - 0x71F) = 0 →
       exec (.clrflag e v) s = .next (s4.modEng e.val fun h => let h := h.pushedTo (d - 1) 1 []
         { h with cr := { h.cr with aflag := h.cr.aflag &&& ~~~ w } })) ∧
     (∀ i : Byte, s3 = s2 → ready 0x2F i.toNat 0 0 → exec (.spadj e i v) s =
       .next (s4.modEng e.val fun h => let h := h.pushedTo d 2 []
         { h with cr := { h.cr with sp := h.cr.sp + 4 * i.signExtend 32 } })))

/-- R213, R214, R223 to R225: the Curd branches go to their own address plus the displacement when their condition holds, else
to the next instruction, and JMPF to a far address; the Curd calls push the return record of the next instruction at SB:SP − 8
and go to their target, CALLK to the vector of class 0x1A in Rind with its operand in T0; RET pops the record and goes where it
says. An element that the pop brings back to the registers is loaded, after the record is stored. -/
def Obligations.CurdControl : Prop :=
  ((∀ row ∈ ([
       ((fun e i v => .br8 e (i.setWidth 8) v), 0x60, 0, fun i _ => some ((i.setWidth 8).signExtend 32)),
       ((fun e i v => .br e i v), 0x61, 0, fun i _ => some (i.signExtend 32)),
       ((fun e i v => .bz e i v), 0x62, 1, fun i a => if lo64 a = 0 then some (i.signExtend 32) else none),
       ((fun e i v => .bnz e i v), 0x63, 1, fun i a => if lo64 a = 0 then none else some (i.signExtend 32))] :
       List ((EngId → BitVec 16 → Env → Instr) × Nat × Nat × (BitVec 16 → Tally → Option (BitVec 32)))),
     ∀ (s s1 s2 s4 : State) (e : EngId) (i : BitVec 16) (v : Env) (sp fl : List (Nat × Place)),
       let d := (s1.eng e.val).cr.depth
       let g := s2.eng e.val
       let a := (g.popped d 1).getD 0 0
       let len := (curdLen row.2.1).getD 1
       CurdReady s e.val v row.2.1 (if row.2.1 = 0x60 then (i.setWidth 8).toNat else i.toNat) false s1 →
       Stacked s1 e.val row.2.2.1 0 v s2 sp fl → fl.any (fun p => s2.waits e.val v p.2) = false →
       s2.moved e.val g.t sp fl = .ok s4 →
       exec (row.1 e i v) s = .next (s4.modEng e.val fun h =>
         let h := h.pushedTo (d - row.2.2.1) len []
         match row.2.2.2 i a with
         | some d => { h with pc := g.pc + d, cr := { h.cr with esw := { h.cr.esw with cb := g.cr.esw.cb } } }
         | none => h)) ∧
     (∀ (s s1 s2 s4 : State) (e : EngId) (v : Env) (sp fl : List (Nat × Place)),
       let d := (s1.eng e.val).cr.depth
       let a := ((s2.eng e.val).popped d 1).getD 0 0
       CurdReady s e.val v 0x67 0 false s1 → Stacked s1 e.val 1 0 v s2 sp fl →
       fl.any (fun p => s2.waits e.val v p.2) = false → s2.moved e.val (s2.eng e.val).t sp fl = .ok s4 →
       exec (.jmpf e v) s = .next (s4.modEng e.val fun h =>
         let h := h.pushedTo (d - 1) 1 []
         { h with pc := a.setWidth 32, cr := { h.cr with esw := { h.cr.esw with
           cb := (a >>> (32 : Nat)).setWidth 16 } } }))) ∧
  (∀ row ∈ ([
       ((fun e i v => .call e i v), 0x64, 0, fun g i _ => (g.cr.esw.cb, g.pc + i.signExtend 32)),
       ((fun e _ v => .callf e v), 0x65, 1, fun _ _ a => ((a >>> (32 : Nat)).setWidth 16, a.setWidth 32)),
       ((fun e i v => .callk e (i.setWidth 8) v), 0x68, 0,
         fun g _ _ => ((g.cr.xvec >>> (32 : Nat)).setWidth 16, (g.cr.xvec.setWidth 32) / 4096 * 4096 + 64 * 0x1A))] :
       List ((EngId → BitVec 16 → Env → Instr) × Nat × Nat × (Eng → BitVec 16 → Tally → BitVec 16 × BitVec 32))),
     ∀ (s s1 s2 s3 s4 s5 : State) (e : EngId) (i : BitVec 16) (v : Env) (pl : Place) (sp fl : List (Nat × Place)),
       let d := (s1.eng e.val).cr.depth
       let g := s2.eng e.val
       let op := row.2.1
       let a := (g.popped d 1).getD 0 0
       let len := (curdLen op).getD 1
       CurdReady s e.val v op (if op = 0x64 then i.toNat else if op = 0x68 then i.toNat % 256 else 0) false s1 →
       Stacked s1 e.val row.2.2.1 0 v s2 sp fl →
       s2.access e.val (ueLines v) (s2.ctx e.val) .store g.cr.esw.sb.toNat (g.cr.sp - 8).toNat 8 1 = (s3, .ok pl) →
       fl.any (fun p => s3.waits e.val v p.2) = false →
       s3.store e.val pl (retRecord g.cr.esw.cb.toNat (g.pc + BitVec.ofNat 32 len).toNat) = .ok s4 →
       State.fillRegs e.val fl s4 = .ok s5 →
       exec (row.1 e i v) s = .next (s5.modEng e.val fun h =>
         let h := h.pushedTo (d - row.2.2.1) len []
         { h with
           pc := (row.2.2.2 g i a).2, t := if op = 0x68 then h.t.set 0 (BitVec.ofNat 96 (i.toNat % 256)) else h.t,
           cr := { h.cr with sp := g.cr.sp - 8, esw := { h.cr.esw with
             cb := (row.2.2.2 g i a).1, priv := decide (op = 0x68) || h.cr.esw.priv } } })) ∧
  (∀ (s s1 s2 s3 : State) (e : EngId) (v : Env) (pl : Place) (r : List Byte),
     let g := s1.eng e.val
     CurdReady s e.val v 0x66 0 false s1 → g.cr.depth ≤ g.cr.capacity →
     s1.access e.val (ueLines v) (s1.ctx e.val) .load g.cr.esw.sb.toNat g.cr.sp.toNat 8 1 = (s2, .ok pl) →
     s2.waits e.val v pl = false → s2.load e.val pl 8 = .ok (s3, r) → numAt r 0 2 = 0 →
     exec (.ret e v) s = .next (s3.modEng e.val fun h =>
       let h := h.pushedTo g.cr.depth 1 []
       { h with pc := BitVec.ofNat 32 (numAt r 4 4), cr := { h.cr with
         sp := h.cr.sp + 8, esw := { h.cr.esw with cb := BitVec.ofNat 16 (numAt r 2 2) } } }))

/-- R213, R214, R216, R221, R187: each Curd ALU instruction pops b and a and pushes the result of its operation on them, at any
depth. -/
def Obligations.CurdAlu : Prop :=
  ∀ row ∈ ([
      (Instr.add, 0x30, fun a b => a + b), (Instr.sub, 0x31, fun a b => a - b), (Instr.and, 0x32, fun a b => a &&& b),
      (Instr.or, 0x33, fun a b => a ||| b), (Instr.xor, 0x34, fun a b => a ^^^ b),
      (Instr.shl, 0x35, fun a b => a <<< (b.toNat % 64)), (Instr.shr, 0x36, fun a b => a >>> (b.toNat % 64)),
      (Instr.sar, 0x37, fun a b => a.sshiftRight (b.toNat % 64)), (Instr.mul, 0x38, fun a b => a * b),
      (Instr.ceq, 0x39, fun a b => if a = b then 1 else 0), (Instr.clt, 0x3A, fun a b => if a.toInt < b.toInt then 1 else 0),
      (Instr.cltu, 0x3B, fun a b => if a.toNat < b.toNat then 1 else 0)] :
      List ((EngId → Env → Instr) × Nat × (W64 → W64 → W64))),
    ∀ (s s1 s2 : State) (e : EngId) (v : Env) (sp fl : List (Nat × Place)),
      let l := (s2.eng e.val).popped (s1.eng e.val).cr.depth 2
      CurdReady s e.val v row.2.1 0 false s1 → Stacked s1 e.val 2 1 v s2 sp fl →
      fl.any (fun p => s2.waits e.val v p.2) = false →
      UnitStacked (exec (row.1 e v) s) s1 s2 e.val 2 1 0 sp fl
        [(row.2.2 (lo64 (l.getD 0 0)) (lo64 (l.getD 1 0))).setWidth 96]

/-- R213, R214, R216, R221, R241, R243, R244, R247, R250: each Curd instruction of DA, DM, DD, CV and CK pops its operands and
pushes what the unit delivers for them, at any depth; a condition that is not enabled leaves the masked result and its AFLAG
bit, and one that is enabled is an exception of the instruction (R252, R222). No microword of CV fails (R416). -/
def Obligations.CurdDecimal : Prop :=
  ∀ row ∈ ([
      (Instr.dadd, 0x40, fun a b m _ => daAdd a b m, 1, fun r => [r.r]), (Instr.dsub, 0x41, fun a b m _ => daSub a b m, 1, fun r => [r.r]),
      (Instr.dcmp, 0x42, fun a b m _ => daCmp a b m, 1, fun r => [r.r]), (Instr.dsrnd, 0x43, fun a _ m d => daSrnd a m d, 1, fun r => [r.r]),
      (Instr.dneg, 0x44, fun a _ _ _ => daNeg a, 1, fun r => [r.r]), (Instr.dabs, 0x45, fun a _ m _ => daAbs a m, 1, fun r => [r.r]),
      (Instr.dtest, 0x46, fun a _ m _ => daTest a m, 1, fun r => [r.r]),
      (Instr.dmul, 0x48, fun a b m d => dmMul a b m d, 2, fun r => [r.r, r.r2]),
      (Instr.dmull, 0x49, fun a b m d => dmMul a b m d, 1, fun r => [r.r2]),
      (Instr.ddiv, 0x4A, fun a b m d => ddDiv a b m d, 2, fun r => [r.r, r.r2]),
      (Instr.ddivq, 0x4B, fun a b m d => ddDiv a b m d, 1, fun r => [r.r]),
      (Instr.b2d, 0x50, fun a _ m _ => cvB2d (lo64 a) m, 1, fun r => [r.r]), (Instr.d2b, 0x51, fun a _ m _ => cvD2b a m, 1, fun r => [r.r]),
      (Instr.f2t, 0x53, fun a b m d => cvF2t (if m % 2 = 1 then (lo64 a).toNat * 2 ^ 64 + (lo64 b).toNat else (lo64 a).toNat) m d,
        1, fun r => [r.r]),
      (Instr.gs1, 0x90, fun a _ m _ => ckOp 0 a m, 1, fun r => [r.r]), (Instr.luhn, 0x91, fun a _ m _ => ckOp 1 a m, 1, fun r => [r.r]),
      (Instr.m97, 0x92, fun a _ m _ => ckOp 2 a m, 1, fun r => [r.r])] :
      List ((EngId → BitVec 16 → Env → Instr) × Nat × (Tally → Tally → Nat → Nat → URes) × Nat × (URes → List Tally))),
    ∀ (s s1 s2 : State) (e : EngId) (m : BitVec 16) (v : Env) (sp fl : List (Nat × Place)),
      let k := curdPops row.2.1 m.toNat
      let l := (s2.eng e.val).popped (s1.eng e.val).cr.depth k
      let r := row.2.2.1 (l.getD 0 0) (l.getD 1 0) m.toNat (s2.esw e.val).drnd.toNat
      CurdReady s e.val v row.2.1 m.toNat false s1 → Stacked s1 e.val k row.2.2.2.1 v s2 sp fl →
      fl.any (fun p => s2.waits e.val v p.2) = false → (s2.eng e.val).busyFor (curdPort row.2.1) = false →
      (curdPort row.2.1 / 16 = 0x2D → s2.rnFault e.val v (curdPort row.2.1) (m.toNat % 2 ^ 9) = none) →
      (s2.eng e.val).cr.esw.priv = false →
      (∀ c, r.cond = some c → (s2.esw e.val).enabled c = true → Raises (exec (row.1 e m v) s) s2 e.val (ueLines v)
        { cls := xOfCond c, faddr := row.2.1, aflag := aflagOf c } 3) ∧
      ((∀ c, r.cond = some c → (s2.esw e.val).enabled c = false) →
        UnitStacked (exec (row.1 e m v) s) s1 s2 e.val k 3 (r.cond.elim 0 aflagOf) sp fl (row.2.2.2.2 r))

/-- R213, R214, R216, R220, R221, R260: each Curd instruction of DF, and T2F, pops its operands, one or two elements each, and
pushes what the unit delivers, at any depth; flags that no trap is enabled for join AFLAG, and a trap that is enabled is an
exception of the instruction (R275, R276). No microword of div or T2F fails (R416). -/
def Obligations.CurdFloat : Prop :=
  (∀ row ∈ ([(Instr.dfadd, 0), (Instr.dfsub, 1), (Instr.dfmul, 2), (Instr.dfdiv, 3), (Instr.dffma, 4), (Instr.dfcmp, 5),
      (Instr.dfcmps, 6), (Instr.dfquant, 7), (Instr.dfrint, 8), (Instr.dfscaleb, 9), (Instr.dfmin, 10), (Instr.dfmax, 11),
      (Instr.dfwiden, 12), (Instr.dfnarrow, 13)] : List ((EngId → BitVec 16 → Env → Instr) × Nat)),
    ∀ (s s1 s2 : State) (e : EngId) (m : BitVec 16) (v : Env) (sp fl : List (Nat × Place)),
      let op := 0x80 + row.2
      let k := curdPops op m.toNat
      let l := (s2.eng e.val).popped (s1.eng e.val).cr.depth k
      let q := curdLatch (s2.eng e.val).ports op m.toNat l
      let t := latchOf (curdTrig op m.toNat l).1 (curdTrig op m.toNat l).2
      let r := dfOp row.2 (m.toNat % 2 ^ 9) (s2.esw e.val).dfrnd q.dfo q.dfo2 t
      CurdReady s e.val v op m.toNat false s1 → Stacked s1 e.val k (curdPushes op m.toNat) v s2 sp fl →
      fl.any (fun p => s2.waits e.val v p.2) = false → (s2.eng e.val).df = none →
      (row.2 = 3 → s2.rnFault e.val v 0x2B3 (m.toNat % 2 ^ 9) = none) → (s2.eng e.val).cr.esw.priv = false →
      ((s2.esw e.val).dfte.toNat &&& r.flags ≠ 0 → Raises (exec (row.1 e m v) s) s2 e.val (ueLines v)
        { cls := xFloat, faddr := op, aflag := r.flags,
          dft := some (dftRecord (0x2B0 + row.2) (m.toNat % 2 ^ 9) q.dfo q.dfo2 t r.flags r.bytes) } 3) ∧
      ((s2.esw e.val).dfte.toNat &&& r.flags = 0 →
        UnitStacked (exec (row.1 e m v) s) s1 s2 e.val k 3 r.flags sp fl (Wide.elems ⟨BitVec.ofNat 128 r.val, r.wide⟩))) ∧
  (∀ (s s1 s2 : State) (e : EngId) (m : BitVec 16) (v : Env) (sp fl : List (Nat × Place)),
    let a := ((s2.eng e.val).popped (s1.eng e.val).cr.depth 1).getD 0 0
    let r := cvT2f a (m.toNat % 2 ^ 9) (s2.esw e.val).dfrnd.toNat
    let wide := decide (m.toNat % 2 = 1)
    CurdReady s e.val v 0x52 m.toNat false s1 → Stacked s1 e.val 1 (curdPushes 0x52 m.toNat) v s2 sp fl →
    fl.any (fun p => s2.waits e.val v p.2) = false → (s2.eng e.val).df = none →
    s2.rnFault e.val v 0x2D2 (m.toNat % 2 ^ 9) = none → r.1 = none →
    ((s2.esw e.val).dfte.toNat &&& r.2.2 ≠ 0 → Raises (exec (.t2f e m v) s) s2 e.val (ueLines v)
      { cls := xFloat, faddr := 0x52, aflag := r.2.2,
        dft := some (dftRecord 0x2D2 (m.toNat % 2 ^ 9) {} {} { latchOf (a.setWidth 128) true with pair := false } r.2.2
          (if wide then toBytes 16 r.2.1 else toBytes 8 r.2.1)) } 3) ∧
    ((s2.esw e.val).dfte.toNat &&& r.2.2 = 0 →
      UnitStacked (exec (.t2f e m v) s) s1 s2 e.val 1 3 r.2.2 sp fl (Wide.elems ⟨BitVec.ofNat 128 r.2.1, wide⟩)))

/-- R213, R214, R216, R188: each Curd load pops its offset, or takes SP, and pushes the bytes that its access reads; each Curd
store stores the low bytes of its element. LDL may store an element that leaves the registers, after its load; a store may
load one that returns, after its own bytes are stored. -/
def Obligations.CurdMemory : Prop :=
  (∀ row ∈ ([(Instr.ldb, 0x20, 1, 1), (Instr.ldh, 0x21, 2, 2), (Instr.ldw, 0x22, 4, 4), (Instr.ldd, 0x23, 8, 8),
      (Instr.ldt, 0x24, 12, 4), ((fun e k _ v => Instr.ldl e k v), 0x2D, 12, 4)] :
      List ((EngId → Byte → BitVec 16 → Env → Instr) × Nat × Nat × Nat)),
    ∀ (s s1 s2 s3 s4 s5 : State) (e : EngId) (k : Byte) (i : BitVec 16) (v : Env) (pl : Place) (bs : List Byte)
      (sp fl : List (Nat × Place)),
      let d := (s1.eng e.val).cr.depth
      let g := s2.eng e.val
      let loc := decide (row.2.1 = 0x2D)
      let n := if loc then 0 else 1
      let a := (g.popped d 1).getD 0 0
      CurdReady s e.val v row.2.1 (if loc then k.toNat else k.toNat * 2 ^ 16 + i.toNat) false s1 →
      Stacked s1 e.val n 1 v s2 sp fl →
      s2.access e.val (ueLines v) (s2.ctx e.val) .load (if loc then g.cr.esw.sb.toNat else (g.b.getD k.toNat 0).toNat)
        (if loc then (g.cr.sp.toNat + 4 * k.toNat) % 2 ^ 32 else (a.toNat + i.toNat) % 2 ^ 32) row.2.2.1 row.2.2.2 =
          (s3, .ok pl) →
      s3.waits e.val v pl = false → s3.load e.val pl row.2.2.1 = .ok (s4, bs) →
      State.spill e.val (s3.eng e.val).t sp s4 = .ok s5 →
      exec (row.1 e k i v) s = .next (s5.modEng e.val fun h =>
        h.pushedTo (d - n) ((curdLen row.2.1).getD 1) [BitVec.ofNat 96 (ofBytes bs)])) ∧
  (∀ row ∈ ([(Instr.stb, 0x28, 1, 1), (Instr.sth, 0x29, 2, 2), (Instr.stw, 0x2A, 4, 4), (Instr.std, 0x2B, 8, 8),
      (Instr.stt, 0x2C, 12, 4), ((fun e k _ v => Instr.stl e k v), 0x2E, 12, 4)] :
      List ((EngId → Byte → BitVec 16 → Env → Instr) × Nat × Nat × Nat)),
    ∀ (s s1 s2 s3 s4 s5 : State) (e : EngId) (k : Byte) (i : BitVec 16) (v : Env) (pl : Place) (sp fl : List (Nat × Place)),
      let d := (s1.eng e.val).cr.depth
      let g := s2.eng e.val
      let loc := decide (row.2.1 = 0x2E)
      let n := if loc then 1 else 2
      let l := g.popped d n
      CurdReady s e.val v row.2.1 (if loc then k.toNat else k.toNat * 2 ^ 16 + i.toNat) false s1 →
      Stacked s1 e.val n 0 v s2 sp fl →
      s2.access e.val (ueLines v) (s2.ctx e.val) .store (if loc then g.cr.esw.sb.toNat else (g.b.getD k.toNat 0).toNat)
        (if loc then (g.cr.sp.toNat + 4 * k.toNat) % 2 ^ 32 else ((l.getD 1 0).toNat + i.toNat) % 2 ^ 32)
        row.2.2.1 row.2.2.2 = (s3, .ok pl) →
      fl.any (fun p => s3.waits e.val v p.2) = false →
      s3.store e.val pl (toBytes row.2.2.1 ((l.getD 0 0).toNat % 2 ^ (8 * row.2.2.1))) = .ok s4 →
      State.fillRegs e.val fl s4 = .ok s5 →
      exec (row.1 e k i v) s = .next (s5.modEng e.val fun h => h.pushedTo (d - n) ((curdLen row.2.1).getD 1) []))

/-- R213, R214, R228 to R231, R281: each Curd string instruction that is not running pops its operands into the string
registers and starts, once the slots of the elements that its end loads back pass; one that is resumes, once the slot of an
element that its push stores passes. REP with a count other than 0 starts its instruction with the count in LC, and with 0
pops the operands and pushes 0. -/
def Obligations.CurdStrings : Prop :=
  (∀ row ∈ ([(Instr.pack, 0x54), (Instr.unpk, 0x55), (Instr.mdec, 0x56), (Instr.move, 0xA0), (Instr.scmp, 0xA1),
      (Instr.scan, 0xA2), (Instr.xlat, 0xA3), (Instr.fill, 0xA4), (Instr.edit, 0xA8)] :
      List ((EngId → BitVec 16 → Env → Instr) × Nat)),
    ∀ (s s1 s2 : State) (e : EngId) (m : BitVec 16) (v : Env) (rep : Bool),
      let op := row.2
      let g := s1.eng e.val
      let d := g.cr.depth
      let k := curdPops op m.toNat + rep.toNat
      let l := g.popped d k
      let count := (l.getD (k - 1) 0).toNat % 2 ^ 32
      let c := g.cr.strLoad op l
      let run (popped : Bool) : StrRun := {
        insn := .curd (BitVec.ofNat 8 op) (BitVec.ofNat 32 m.toNat) rep, port := BitVec.ofNat 12 (curdPort op),
        opmod := BitVec.ofNat 9 m.toNat, vals := [], popped := popped, deep := d
        back := if popped then some (g.t, g.cr) else none
        micro := { at_ := rnEntry (curdPort op) (m.toNat % 2 ^ 9) g.cr.ip } }
      let x := if rep then .rep e (BitVec.ofNat 8 op) m v else row.1 e m v
      let fits (l : List Tally) := op = 0xA3 → (l.getD 3 0).toNat % 2 ^ 8 = 0
      CurdReady s e.val v op m.toNat rep s1 → g.busyFor (curdPort op) = false → (rep = true → g.cr.esw.la = false) →
      (∀ sp, g.cr.ip = true → d + 1 ≤ g.cr.capacity →
        State.checkSlots e.val (ueLines v) .store (spillsOf d (d + 1)) s1 = (s2, .ok sp) →
        exec x s = .next (s2.modEng e.val fun g => { g with str := some (run false), seen := s2.modeAt e.val })) ∧
      (∀ sp fl s4, g.cr.ip = false → Stacked s1 e.val k 1 v s2 sp fl → fl.any (fun p => s2.waits e.val v p.2) = false →
        fits ((s2.eng e.val).popped d k) → rep = true → count = 0 → s2.moved e.val (s2.eng e.val).t sp fl = .ok s4 →
        exec x s = .next (s4.modEng e.val fun g =>
          let h := g.pushedTo (d - k) 4 [0]
          { h with cr := { h.cr with lc := 0 } })) ∧
      (∀ fl, g.cr.ip = false → k ≤ d → fits l → strBad c (curdPort op) = false → (rep = true → count ≠ 0) →
        State.checkSlots e.val (ueLines v) .load (fillsOf d (d - k + 1)) s1 = (s2, .ok fl) →
        exec x s = .next (s2.modEng e.val fun h => { h with
          str := some (run true), seen := s2.modeAt e.val, cr := { c.strStart (curdPort op) with
          osp := BitVec.ofNat 32 (g.cr.oslo.toNat + 12 * (d - k)),
          lc := if rep then BitVec.ofNat 32 count else g.cr.lc } })))

/-- R213, R229, R230, R286, R287, R291, R295, R407, R408: an iteration of a string operation that is not its last, no microword
of which fails, leaves the state the iteration gives, with what its patch words do beside and Rennet at its next boundary; the
last one of a Curd instruction ends the string, pushes the result and continues after it, behind the element that the push
stores when the instruction resumed, and those that return to the registers when it has popped its operands in this issue; in a
repeat whose count is not used up it starts the next repetition. An iteration of ST.t.fill whose bytes lie in the scratch window,
short of the end of the pass, writes ARG to every byte up to the next 16-byte boundary of the destination, and moves SDST on and
SCNT down by their number. -/
def Obligations.StringIterations : Prop :=
  (∀ (s s0 s1 : State) (e : EngId) (v : Env) (run : StrRun) (r0 : Option (Tally × Bool)),
     let g := s.eng e.val
     let s' := s.corrected (ceLines v)
     let sd := if g.rn.live then s'.draw else s'
     let p := run.port.toNat
     let op := run.opmod.toNat
     let idle := decide (0x310 ≤ p) && decide (p ≤ 0x314) && decide (g.cr.scnt = 0)
     let o := s'.rnIter e.val v run
     let u := s1.modEng e.val fun g =>
       let g := { o.acts g with str := some { run with micro := o.micro p op } }
       if idle then g else g.countUp
     g.str = some run → g.atLimit = false → g.amc = none → (∀ sub ea n, o ≠ .fail sub ea n) →
     sd.strIter e.val run.slot run.faddr (ueLines v) p op = (s0, .ok (s1, r0)) →
     (o.result s'.fresh r0 = none → exec (.stringIteration e v) s = .next u) ∧
     (∀ r pv op8 imm, o.result s'.fresh r0 = some (r, pv) → run.insn = .curd op8 imm false → (u.eng e.val).atLimit = false →
       let w := u.modEng e.val fun g => { g with cr := { g.cr with saux := setBit g.cr.saux 63 false } }
       let d := (w.eng e.val).cr.depth
       ∀ s2 s3 s4 sp fl,
         State.checkSlots e.val (ueLines v) .store (if run.popped then [] else spillsOf d (d + 1)) w = (s2, .ok sp) →
         State.checkSlots e.val (ueLines v) .load (if run.popped then fillsOf run.deep (d + 1) else []) s2 = (s3, .ok fl) →
         s3.moved e.val (s3.eng e.val).t sp fl = .ok s4 →
         exec (.stringIteration e v) s = .next (s4.modEng e.val fun g =>
           let h := ((g.strResult p op r pv).push d [r]).countUp
           { h with str := none, pc := h.pc + BitVec.ofNat 32 run.insn.ilen })) ∧
     (∀ r pv op8 imm, o.result s'.fresh r0 = some (r, pv) → run.insn = .curd op8 imm true →
       (u.eng e.val).cr.lc - 1 ≠ 0 →
       exec (.stringIteration e v) s = .next (u.modEng e.val fun g => { g with
         cr := { g.cr with lc := (u.eng e.val).cr.lc - 1 }
         str := some { run with back := none, micro := { at_ := rnEntry p op true } } }))) ∧
  (∀ (s : State) (e : EngId) (v : Env) (run : StrRun),
     let g := s.eng e.val
     let s' := s.corrected (ceLines v)
     let sd := if g.rn.live then s'.draw else s'
     let c := g.cr
     let k := 16 - offOf c.sdst % 16
     let o := s'.rnIter e.val v run
     g.str = some run → run.port = 0x314 → g.atLimit = false → g.amc = none → (∀ sub ea n, o ≠ .fail sub ea n) →
     o.result s'.fresh none = none → g.mem.sbuf = [] → k < c.scnt.toNat →
     (∀ i, i < k → inScratch c.scrw (bankOf c.sdst) (offOf c.sdst + i) = true) →
     let bs := List.replicate k (BitVec.ofNat 8 (fld c.saux 7 0))
     exec (.stringIteration e v) s = .next (sd.modEng e.val fun g =>
       let h := { g with
         mem := { g.mem with scratch := writeBytes g.mem.scratch (offOf c.sdst % 2 ^ 14) bs },
         cr := { c with sdst := advance c.sdst k, scnt := BitVec.ofNat 32 (c.scnt.toNat - k) } }
       { (o.acts h).countUp with str := some { run with micro := o.micro 0x314 run.opmod.toNat } }))

/-- R374, R378, R380, R381, R399: an exception entry outside Salvage, of an engine that no microword stops first, with a valid TSBR whose TSB and vector pass their checks
saves the engine in the TSB and continues in Rind at the vector of its class, with IE 0 and the handler port set; an entry
whose TSBR is not valid writes the Salvage TSB into local SRAM from byte 0 and continues at offset 0x2000 of local SRAM in
Rind with SP 0x2000, KEY and IE 0 and CAUSE and FADDR in T16 and T17. -/
def Obligations.ExceptionEntry : Prop :=
  (∀ (s s2 s3 s4 : State) (e : Nat) (ue : List Nat) (x : Entry) (pl q : Place),
     let f := s.modEng e fun g => g.flags x.exc.aflag
     let l := ((f.syncEvent e).strFill e ue).landAll e
     let u := l.1
     let y : Entry := { x with dd := x.dd <|> l.2.1, df := x.df <|> l.2.2 }
     let c := (u.eng e).cr
     (s.eng e).mode = .running → (u.eng e).mode = .running → (s.eng e).cr.esw.salv = false → bit c.tsbr 0 = true →
     (c.esw.tx = 0 ∨ inScratch c.scrw (fld c.tsbr 47 32) (tsbOff c.tsbr) = true) →
     u.access e ue (u.supCtx e) .store (fld c.tsbr 47 32) (tsbOff c.tsbr) 512 1 = (s2, .ok pl) →
     s3 = s2.putTsb e pl (s2.tsbImage e y none) →
     s3.access e ue (s3.supCtx e) .fetch (fld (s3.eng e).cr.xvec 47 32)
       (fld (s3.eng e).cr.xvec 31 12 * 4096 + 64 * x.exc.cls) 64 1 = (s4, .ok q) →
     let w := (s3.eng e).cr.xvec
     ∃ t, s.enter e ue x = t ∧ OnlyEngine s4 t e ∧ (t.eng e).pc = BitVec.ofNat 32 (fld w 31 12 * 4096 + 64 * x.exc.cls) ∧
       (t.eng e).hset = true ∧ (t.eng e).imp = none ∧ (t.eng e).mem = (s4.eng e).mem ∧ (t.eng e).t = (s4.eng e).t ∧
       (t.eng e).cr = { (s4.eng e).cr with esw := { (s4.eng e).cr.esw with
         priv := true, ie := false, bp := false, la := false, cb := BitVec.ofNat 16 (fld w 47 32) } }) ∧
  (∀ (s : State) (e : Nat) (ue : List Nat) (x : Entry),
     let f := s.modEng e fun g => g.flags x.exc.aflag
     let l := ((f.syncEvent e).strFill e ue).landAll e
     let u := l.1
     let y : Entry := { x with dd := x.dd <|> l.2.1, df := x.df <|> l.2.2 }
     let img := u.tsbImage e y (some (escr 1 0 0))
     (s.eng e).mode = .running → (u.eng e).mode = .running → (s.eng e).cr.esw.salv = false → bit (u.eng e).cr.tsbr 0 = false →
     ∃ t, s.enter e ue x = t ∧ OnlyEngine u t e ∧ (t.eng e).pc = 0x2000 ∧ (t.eng e).hset = true ∧ (t.eng e).imp = none ∧
       (t.eng e).mem = { (u.eng e).mem with sram := writeBytes (u.eng e).mem.sram 0 img } ∧
       ((u.eng e).t.length = 32 → (t.eng e).t.getD 16 0 = BitVec.ofNat 96 (numAt img 0x18 8) ∧
         (t.eng e).t.getD 17 0 = BitVec.ofNat 96 (numAt img 0x20 8)) ∧
       (t.eng e).cr = { (u.eng e).cr with sp := 0x2000, esw := { (u.eng e).cr.esw with
         salv := true, priv := true, ie := false, bp := false, la := false, key := 0 } })

/-- R182, R206, R217, R371, R372: a bundle that fails its decode checks, on an engine with no machine check, report or
interrupt to take first, raises the first exception of the checks and has no other effect; an opcode byte that the table does
not list raises Illegal Opcode with the byte in FADDR (Raises: what R379 lets complete completes before the entry). -/
def Obligations.UndecodedTraps : Prop :=
  (∀ (s s1 : State) (e : EngId) (b : Bundle) (v : Env) (x : Exc) (p : List Byte),
     let g := s.eng e.val
     g.ready = true → g.cr.esw.priv = true → v.parity ≠ some 5 → g.amc = none → g.imp = none → g.owes = false →
     (s.corrected (ceLines v)).fetch e.val (ueLines v) 16 = (s1, .ok p) → ofBytes p = b.toNat →
     (s1.eng e.val).amc = none → decodeCheck b g.cr.esw.bp = some x →
     Raises (exec (.bundleMove e b v) s) s1 e.val (ueLines v) x 0) ∧
  (∀ (s s1 : State) (e : EngId) (op : Byte) (v : Env) (p : List Byte),
     let g := s.eng e.val
     curdLen op.toNat = none → g.ready = true → g.cr.esw.priv = false → v.parity ≠ some 5 → g.amc = none → g.imp = none →
     (s.corrected (ceLines v)).fetchAt e.val (ueLines v) g.pc.toNat 1 = (s1, .ok p) → p = [op] →
     ∃ ilen, 1 ≤ ilen ∧ ilen ≤ 5 ∧
       Raises (exec (.illegalOpcode e op v) s) s1.draw e.val (ueLines v) { cls := 0x04, faddr := op.toNat } ilen) ∧
  ∀ op : Nat, (0x08 ≤ op ∧ op ≤ 0x0F ∨ 0x14 ≤ op ∧ op ≤ 0x16 ∨ 0x18 ≤ op ∧ op ≤ 0x1F ∨ 0x25 ≤ op ∧ op ≤ 0x27 ∨
      0x3C ≤ op ∧ op ≤ 0x3F ∨ op = 0x47 ∨ 0x4C ≤ op ∧ op ≤ 0x4F ∨ 0x57 ≤ op ∧ op ≤ 0x5F ∨ 0x69 ≤ op ∧ op ≤ 0x6F ∨
      0x77 ≤ op ∧ op ≤ 0x7F ∨ 0x8E ≤ op ∧ op ≤ 0x8F ∨ 0x93 ≤ op ∧ op ≤ 0x9F ∨ 0xA5 ≤ op ∧ op ≤ 0xA7 ∨
      0xA9 ≤ op ∧ op ≤ 0xEF ∨ 0xF1 ≤ op ∧ op ≤ 0xFF) →
    curdLen op = none

/-- R67, R79, R156, R354, R355, R372, R391, R392, R394, R574: what the engine's interrupt, limit, tick timer, store buffer,
reset and start commands do where each has something to act on. At a boundary a machine check that is due comes before a
pending report, and that before the interrupt. The oldest store-buffer entry is written, the engine's own loads reading its
bytes as before; one that meets an error is not written. A load that arrives while others of its bundle wait leaves those
waiting; with the last one the bundle or the Curd instruction is carried out, and a load's bytes go to its result port: that
the whole bundle is held until its last load arrives is the model's choice (log 16), as is that a one-shot expiry leaves
TKCTL.EN set (log 27).
Each of the eight answers a next state under conditions on the state alone: interruptEntry, bundleLimit, tickTimerExpiry,
storeBufferWrite, storeWriteError, engineReset, engineStart, loadComplete. -/
def Obligations.EngineEvents : Prop :=
  (∀ (s : State) (e : EngId),
     let g := s.eng e.val
     let u := s.longDone e.val
     let ilen := g.str.elim (s.curdIlen e.val) fun r => r.insn.ilen
     (s.atBoundary e.val = true →
       (∀ va, g.amc = some va → exec (.interruptEntry e) s = .next (u.draw.mcheck e.val [] va ilen)) ∧
       (∀ c, g.amc = none → s.irqReq e.val = some c →
         (∀ i, (u.eng e.val).imp = some i → (u.eng e.val).owes = false →
           exec (.interruptEntry e) s = .next (u.report e.val [] i)) ∧
         ((u.eng e.val).imp = none → exec (.interruptEntry e) s =
           .next (u.draw.enter e.val [] { exc := { cls := c }, ilen := ilen })))) ∧
     (g.atLimit = true → exec (.bundleLimit e) s = .next (s.seal e.val 3 [])) ∧
     (g.mode = .running → bit g.cr.tkctl 0 = true →
       g.cr.tkcmp.toNat ≤ (s.rxNow (vatOf e.val)).1 * 2 ^ 16 + (s.rxNow (vatOf e.val)).2 →
       exec (.tickTimerExpiry e) s = .next (s.modEng e.val fun g => { g with cr := { g.cr with
         tkctl := setBit g.cr.tkctl 1 true, tkcmp := g.cr.tkcmp + BitVec.ofNat 64 (fld g.cr.tkctl 19 4) } })) ∧
     (∀ x rest, g.mem.sbuf = x :: rest → s.mem.poison.contains (x.pa / 64) = false → s.memWf →
       ∃ t, exec (.storeBufferWrite e) s = .next t ∧ t.mem.bytes = writeBytes s.mem.bytes x.pa x.bytes ∧
         t.mem.keys = s.mem.keys ∧ t.eng e.val = { g with mem := { g.mem with sbuf := rest } } ∧
         (∀ j, j ≠ e.val → t.eng j = s.eng j) ∧
         (∀ i, i < x.bytes.length → t.ownByte e.val (x.pa + i) = s.ownByte e.val (x.pa + i)) ∧
         ((∀ y ∈ s.mem.late, bit y.unseen (vatOf e.val) = false) → ∀ a, t.ownByte e.val a = s.ownByte e.val a)) ∧
     (∀ x rest, g.mem.sbuf = x :: rest → ∃ t, exec (.storeWriteError e) s = .next t ∧ t.mem.bytes = s.mem.bytes ∧
       t.eng e.val = { g with mem := { g.mem with sbuf := rest }, amc := some x.va } ∧
       bit (t.mem.mcs.get (mcOf x.pa) {}).stat 5 = true ∧ (∀ j, j ≠ e.val → t.eng j = s.eng j)) ∧
     (g.hold = true → g.mode = .running → ∃ t, exec (.engineReset e) s = .next t ∧
       t.eng e.val = { g.reset with mode := .held, drain := false }) ∧
     (g.hold = false → g.mode = .held → ∃ t, exec (.engineStart e) s = .next t ∧ OnlyEngine s t e.val ∧
       (t.eng e.val).mode = .running ∧ (t.eng e.val).cr.esw.priv = true ∧
       ∀ c, s.setLast = some c → (t.eng e.val).pc = BitVec.ofNat 32 (fld c.xvec 31 12 * 4096 + 0xFC0) ∧
         (t.eng e.val).cr.esw.cb = BitVec.ofNat 16 (fld c.xvec 47 32) ∧ (t.eng e.val).cr.ptroot = c.root ∧
         (t.eng e.val).cr.tsbr = c.tsbr ∧ (t.eng e.val).cr.scrw = c.scrw)) ∧
  (∀ (s : State) (e : EngId) (port : Fin 2) (v : Env) (insn : Insn) (ports : List Nat),
     (s.eng e.val).missing = some (insn, ports) →
     let rest := ports.filter fun p => p ≠ port.val
     let u := (s.corrected (ceLines v)).modEng e.val fun g => { g with missing := none }
     let w : Env := { v with miss := false }
     (rest ≠ [] → exec (.loadComplete e port v) s = .next (s.modEng e.val fun g => { g with missing := some (insn, rest) })) ∧
     (rest = [] → ∀ b t, insn = .rind b → u.runBundle e.val b w = .next t →
       exec (.loadComplete e port v) s = .next (t.loadEnds e.val)) ∧
     (rest = [] → ∀ op imm rep t, insn = .curd op imm rep → u.curdRun u e.val w op.toNat imm.toNat rep = .next t →
       exec (.loadComplete e port v) s = .next (t.loadEnds e.val)) ∧
     (rest = [] → ∀ (b : Bundle) (m : Mv) (i size align : Nat) (s2 s3 : State) (pl : Place) (bs : List Byte),
       insn = .rind b → Triggers u e.val b m →
       (i, size, align) ∈ [(0, 1, 1), (1, 2, 2), (2, 4, 4), (3, 8, 8), (4, 12, 4)] → (m.dst = 0x350 + i ∨ m.dst = 0x370 + i) →
       u.access e.val (ueLines v) (u.ctx e.val) .load ((u.eng e.val).b.getD (m.op % 8) 0).toNat
         ((m.val.toNat % 2 ^ 32 + 4 * (m.op / 8)) % 2 ^ 32) size align = (s2, .ok pl) →
       s2.waits e.val w pl = false → (s2.begun e.val (u.moves e.val b)).load e.val pl size = .ok (s3, bs) →
       ∃ t, exec (.loadComplete e port v) s = .next t ∧ OnlyEngine s3 t e.val ∧ (t.eng e.val).missing = (s3.eng e.val).missing ∧
         (t.eng e.val).t = (s3.eng e.val).t ∧ (t.eng e.val).nb = (s3.eng e.val).nb + 1 ∧
         (t.eng e.val).ports = (if m.dst < 0x370 then { (s3.eng e.val).ports with ls0r := BitVec.ofNat 96 (ofBytes bs) }
           else { (s3.eng e.val).ports with ls1r := BitVec.ofNat 96 (ofBytes bs) })))

/-- R40, R41, R45, R46, R48 to R54, R56, R58, R59, R61, R65: no tick passes while RUN is 0; a tick inside a turn counts, at
every receiver that its strobe reaches, and lowers TURN_OUT at tick 256; after tick 65,535, and where ticks start, tick 0 of the
next turn begins with the length that its source gives it, a new batch, Intake's counts at 0 and the earlier lane entries one
turn older: of TURN_IN once an edge was accepted, of turn-step where a credit is held, which it takes; an edge inside its window
ends the turn early, on time or late, and one outside sets GLITCH; and what the turn sources, the check words and the turn
number's limit do to the Turner. The exact length and its rounding, the sign of a phase error, that INTAKE_CLOSE changes nothing,
and the counts of receivers that miss a strobe or find an error are the model's readings (log 26). -/
def Obligations.Turner : Prop :=
  (∀ s : State,
     (bit s.trn.ctl 0 = false → ∀ bad, exec (.tick bad) s = .next s) ∧
     (bit s.trn.ctl 0 = true → s.ticking = true → s.trn.tick < 65535 → ∃ t, exec (.tick ⟨[], []⟩) s = .next t ∧
       t.trn = { s.trn with
         tick := s.trn.tick + 1, rise := false, rx := s.trn.rx.map fun p => (p.1, p.2.strobe) } ∧ t.engs = s.engs ∧
       t.mem = s.mem ∧ t.prs = s.prs ∧ t.itk = s.itk ∧ t.via = s.via ∧
       t.dev = { s.dev with turnOut := if s.trn.tick = 255 then false else s.trn.rise || s.dev.turnOut }) ∧
     (∀ r, r < 80 → bit s.trn.ctl 0 = true → s.ticking = true → s.trn.tick < 65535 →
       ∃ t, exec (.tick ⟨[], [r]⟩) s = .next t ∧ t.trn.tick = s.trn.tick + 1 ∧ t.trn.rx.find r = some (s.rxOf r)) ∧
     (let n := if s.ticking then s.trn.turn + 1 else s.trn.turn
      bit s.trn.ctl 0 = true → (s.ticking = true → 65535 ≤ s.trn.tick) → s.trn.src = 0 → n < 2 ^ 48 - 1 → s.dev.mode ≠ 7 →
       ∃ t, exec (.tick ⟨[], []⟩) s = .next t ∧ t.trn.turn = n ∧ t.trn.tick = 0 ∧ t.trn.fresh = true ∧
         t.ticking = true ∧ t.prs.batches.find n = some {} ∧ t.mem = s.mem ∧
         t.itk.lanesPrev = s.itk.lanesOld ∧ t.itk.lanesOld = [] ∧ fld t.itk.status 55 35 = 0 ∧ fld t.itk.status 34 14 = 0 ∧
         t.trn.rise = bit s.trn.ctl 1 ∧ t.dev.turnOut = s.dev.turnOut ∧
         (s.trn.held = true → t.trn.len = s.trn.goal) ∧ (s.trn.held = false → s.trn.disc = 0 → t.trn.len = s.trn.nominal) ∧
         (∀ err, s.phaseNow = some err →
           t.trn.len = ((s.trn.nominal : Int) - within (-s.trn.bound) s.trn.bound (2 * err)).toNat))) ∧
  (∀ s : State,
     let n := if s.ticking then s.trn.turn + 1 else s.trn.turn
     let starts (len : Nat) : Prop := ∃ t, exec (.tick ⟨[], []⟩) s = .next t ∧ t.trn.turn = n ∧ t.trn.tick = 0 ∧
       t.trn.fresh = true ∧ t.ticking = true ∧ t.trn.len = len ∧ t.trn.edge = false ∧ t.prs.batches.find n = some {} ∧
       (s.trn.src = 2 → fld t.trn.status 23 19 = fld s.trn.status 23 19 - 1)
     bit s.trn.ctl 0 = true → (s.ticking = true → 65535 ≤ s.trn.tick) → s.trn.held = false → n < 2 ^ 48 - 1 →
       (s.dev.mode ≠ 7 ∨ s.via.rpl.frames = []) →
       (s.trn.src = 1 → (s.trn.edge = true → starts s.trn.goal) ∧
         (s.trn.edge = false → exec (.tick ⟨[], []⟩) s = .next s)) ∧
       (s.trn.src = 2 → s.dev.mode ≠ 6 →
         (0 < fld s.trn.status 23 19 → (s.via.rpl.hashes.find n).isSome = true → s.via.rpl.diverged = none →
           starts s.trn.nominal) ∧
         (fld s.trn.status 23 19 = 0 → exec (.tick ⟨[], []⟩) s = .next s))) ∧
  (∀ (s : State) (c o : Nat),
     let x := s.trn
     let tol := fld x.ctl 43 32
     let opens := (65536 - tol) * x.len / 65536
     let closes := x.len + tol * x.len / 65536
     let p := min (max (c + o) (x.nominal - tol * x.nominal / 65536)) (x.nominal + tol * x.nominal / 65536)
     x.src = 1 → bit x.ctl 0 = true → s.ticking = true → x.held = false → x.rearm = false → x.edge = false →
     x.edgeAt = some o → bit x.status 2 = false →
       (c < opens ∨ closes ≤ c → exec (.turnInEdge c) s = .next (s.modTrn fun t => { t with status := setBit t.status 5 true })) ∧
       (opens ≤ c → c < closes → ∃ t, exec (.turnInEdge c) s = .next t ∧ { t with trn := s.trn } = s ∧
         t.trn.edge = true ∧ t.trn.turn = x.turn ∧ t.trn.tick = x.tick ∧ t.trn.len = x.len ∧ t.trn.goal = p - t.trn.lag ∧
         bit t.trn.status 6 = (decide (c < 65535 * x.len / 65536) || bit x.status 6) ∧
         bit t.trn.status 7 = (decide (x.len ≤ c) || bit x.status 7) ∧ bit t.trn.status 5 = bit x.status 5 ∧
         (65535 * x.len / 65536 ≤ c → t.trn.lag = 0) ∧
         (c < 65535 * x.len / 65536 → ∃ r, t.trn.lag = 2 * r ∧
           ∀ k, k < 65536 → (65536 - r ≤ k ↔ c ≤ k * x.len / 65536)))) ∧
  (∀ s : State,
     exec .intakeClose s = .next s ∧
     (s.ticking = true → s.trn.tick % 256 = 0 →
       (∀ r ∈ s.trn.rx.map Prod.fst, (s.rxOf r).waiting = false ∧ (s.rxOf r).turn = s.trn.turn ∧ (s.rxOf r).tick = s.trn.tick) →
       exec (.checkWord []) s = .next s) ∧
     (∀ r x, s.ticking = true → s.trn.tick % 256 = 0 → s.trn.rx = [(r, x)] →
       (x.waiting = true → exec (.checkWord []) s = .next (s.modTrn fun t => { t with
         rx := [(r, { x with turn := s.trn.turn, tick := s.trn.tick, waiting := false })] })) ∧
       (x.waiting = false → (x.turn ≠ s.trn.turn ∨ x.tick ≠ s.trn.tick) → x.bad ≠ some s.trn.turn →
         ∃ t, exec (.checkWord []) s = .next t ∧ t.trn.rx = [(r, { x with bad := some s.trn.turn, waiting := true })] ∧
           bit t.trn.status 8 = true ∧ t.dev = s.dev ∧ t.engs = s.engs)) ∧
     (∀ r, r < 80 → s.ticking = true → s.trn.tick % 256 = 0 → s.trn.rx = [] →
       ∃ t, exec (.checkWord [r]) s = .next t ∧
         t.trn.rx = [(r, ⟨s.trn.turn, s.trn.tick, some s.trn.turn, true⟩)] ∧ bit t.trn.status 8 = true ∧
         t.dev = s.dev ∧ t.engs = s.engs) ∧
     (∀ c, s.trn.src = 1 → bit s.trn.ctl 0 = false ∨ s.trn.edge = true →
       exec (.turnInEdge c) s = .next (s.modTrn fun t => { t with status := setBit t.status 5 true })) ∧
     (∀ c, s.trn.src = 1 → bit s.trn.ctl 0 = true → s.trn.edge = false → s.ticking = false →
       ∃ t, exec (.turnInEdge c) s = .next t ∧ t.trn.edge = true ∧ t.trn.goal = s.trn.nominal) ∧
     (∀ err : Int, s.trn.src = 0 → 2 ≤ s.trn.disc → s.ticking = true → s.trn.held = false → err.natAbs < 2 ^ 23 →
       ∃ t, exec (.ppsInEdge err) s = .next t ∧ { t with trn := s.trn } = s ∧ t.trn.phase = some err ∧ t.trn.offs = err ∧
         bit t.trn.status 1 = decide (err.natAbs ≤ 100) ∧
         ((2 * err).natAbs ≤ s.trn.nominal / 64 → t.trn.nextLen = ((s.trn.nominal : Int) - 2 * err).toNat)) ∧
     (s.ticking = true → s.trn.held = false → s.trn.disciplined = true → ∃ t, exec .turnSourceLost s = .next t ∧
       t.trn.held = true ∧ bit t.trn.status 4 = true ∧ fld t.trn.status 39 24 = 0 ∧ t.trn.goal = s.trn.len ∧
       t.trn.turn = s.trn.turn ∧ t.trn.tick = s.trn.tick ∧ t.engs = s.engs ∧ t.mem = s.mem) ∧
     (s.ticking = true → s.trn.held = true → ∃ t, exec .turnSourceRestored s = .next t ∧ t.trn.held = false ∧
       bit t.trn.status 2 = true ∧ fld t.trn.status 39 24 = 0 ∧ t.engs = s.engs ∧ t.mem = s.mem) ∧
     (s.ticking = true → s.trn.held = true → fld s.trn.ctl 15 14 = 1 → fld s.trn.ctl 31 16 ≤ fld s.trn.status 39 24 →
       (s.dev.mode ∈ [4, 5, 7, 8] → ∃ t, exec .holdTurnsReached s = .next t ∧ t.dev.mode = 6 ∧ t.dev.drainTo = s.trn.turn ∧
         t.dev.fromReplay = decide (s.dev.mode = 7)) ∧
       (s.dev.mode ∉ [4, 5, 7, 8] → exec .holdTurnsReached s = .next s)) ∧
     (∀ bad, s.trn.src = 0 → s.trn.disc = 2 →
       exec (.ref10mOutOfTolerance bad) s = .next (s.modTrn fun t => { t with status := setBit t.status 9 bad })) ∧
     (s.ticking = true → 2 ^ 48 - 2 ≤ s.trn.turn → s.dev.mode ≠ 0 →
       ∃ t, exec .turnNumberLimit s = .next t ∧ t.dev.mode = 9) ∧
     (s.ticking = true → 2 ^ 48 - 2 ^ 20 ≤ s.trn.turn → s.trn.turn < 2 ^ 48 - 2 →
       ∃ t, exec .turnNumberLimit s = .next t ∧ t.via.warmD = none ∧
         t.dev.mode = (if s.dev.mode ∈ [4, 5, 7, 8] then 6 else s.dev.mode)) ∧
     (s.ticking = true → s.trn.turn < 2 ^ 48 - 2 ^ 20 → exec .turnNumberLimit s = .next s))

/-- R74, R75, R85, R92, R127, R130, R202, R394, R493: an engine free for a frame that may run takes it, a posting on an engine that none
that can take it is nearer its port: the bundle that waits retires, and the transaction is running on the engine, which begins
the recipe of its descriptor with its registers at 0 and an empty store buffer. A posting that the throttle or its policy sends
solo is queued so; that one which was stopped before runs speculatively again all the same is the model's choice (log 31). -/
def Obligations.Dispatches : Prop :=
  ∀ (s s2 s3 : State) (e : EngId) (key : Key) (t t3 : Tx) (w : Wait) (c : CfgSet) (d : List Byte),
    let k := key.toNat
    let s4 := s3.sbDrain e.val
    let begins (r : Answer) : Prop := ∃ u, r = .next u ∧
      (u.prs.txs.find k).map Tx.phase = some (.running e.val) ∧ (u.eng e.val).t = List.replicate 32 0 ∧
      (u.eng e.val).p = 1 ∧ (u.eng e.val).b = banksOf d 16 ∧ (u.eng e.val).wait = none ∧
      (u.eng e.val).pc = BitVec.ofNat 32 (numAt d 8 4) ∧ (u.eng e.val).cr.esw.cb = BitVec.ofNat 16 (numAt d 4 2) ∧
      (u.eng e.val).cr.esw.tx = (if t3.peek then 2 else 1) ∧ (u.eng e.val).cr.ptroot = c.root ∧
      (u.eng e.val).cr.aflag = 0 ∧ (u.eng e.val).mem.scratch = writeBytes [] 0 (dispatchRecord k t3) ∧
      (u.eng e.val).att.map Attempt.key = some k ∧ ∀ j, j ≠ e.val → u.eng j = s4.eng j
    s.prs.txs.find k = some t → (s.eng e.val).wait = some w → t.phase = .queued →
    (t.solo = false → t.peek = false → s.takesPost e.val = true → s.nearest t.port e.val = true → s.isFinal t.turn = true →
      s.earlierQueued k = false → s.selecting = false → t.rerun = 0 → s.directSolo k t = true →
      exec (.dispatch e key) s = .next (s.modTx k fun t => { t with solo := true, throt := true })) ∧
    (((s.sbDrain e.val).eng e.val).amc = none → (s.sbDrain e.val).pxRetire e.val w = (s2, .ok s3) →
      s4.prs.txs.find k = some t3 → s4.setVer t3.cfg = some c → c.desc t3.rid = some d →
      (t.solo = false → t.peek = true → s.engFree e.val = true → s.heldTurn t.turn = false →
        s.isReserved e.val || !s.reservedFree → begins (exec (.dispatch e key) s)) ∧
      (t.solo = false → t.peek = false → s.takesPost e.val = true → s.nearest t.port e.val = true →
        s.isFinal t.turn = true → s.earlierQueued k = false → s.selecting = false →
        (t.rerun = 0 → s.directSolo k t = false) → begins (exec (.dispatch e key) s)) ∧
      (t.solo = true → s.takesPost e.val = true → s.nearest t.port e.val = true → s.isFinal t.turn = true →
        s.headKey = some k → s.selecting = false → begins (exec (.soloRunStart e key) s)))

/-- R80, R81, R120 to R122, R131, R134, R558, R563: a sealed posting that its home slices have room for, or that is the head of the commit
stream, is acknowledged; the head, acknowledged and with room, commits: its bytes are staged in its batch, its answer waits
there for the release, it leaves the Press, and memory is unchanged. In a mode in which the Press does not run it commits and
acknowledges nothing (R558, R563). -/
def Obligations.Commits : Prop :=
  ∀ (s : State) (key : Key) (k : Nat) (t : Tx) (e : Nat) (v : Env),
    let lines := linesOf t.writes
    (s.dev.mode < 4 ∨ 8 < s.dev.mode → exec (.commit v) s = .next s ∧ exec (.sealAcknowledged key) s = .next s) ∧
    (4 ≤ s.dev.mode → s.dev.mode ≤ 8 →
     s.prs.txs.find key.toNat = some t → t.phase = .sealed e → t.acked = false → s.onMoving lines = false →
      (s.slicesOf lines).find? (fun x => s.sealFull x (s.homed x lines)) = none ∨ s.headKey = some key.toNat →
      exec (.sealAcknowledged key) s = .next (s.modTx key.toNat fun t => { t with acked := true })) ∧
    (4 ≤ s.dev.mode → s.dev.mode ≤ 8 →
     s.prs.txs.find? (fun p => !p.2.peek) = some (k, t) → t.phase = .sealed e → t.acked = true → s.onMoving lines = false →
      lines.find? (fun l => s.bad (ueLines v) (l * 64)) = none → s.commitWaits lines = none →
      ∃ u, exec (.commit v) s = .next u ∧ u.mem = s.mem ∧
        (u.prs.batches.get t.turn {}).staged =
          t.writes.foldl (fun m c => putByte m c.1 c.2) (s.prs.batches.get t.turn {}).staged ∧
        (u.prs.batches.get t.turn {}).done = (s.prs.batches.get t.turn {}).done ++
          [⟨k, t.outcome, t.result, t.port, t.sub, t.src, t.header⟩] ∧
        (s.victims k lines = [] → u.prs.txs = s.prs.txs.drop k ∧ u.engs = s.engs))

/-- R74, R93, R95, R100, R101, R480, R635: a batch that is complete, met its deadline and waits for nothing is released at
tick 0 two turns later: the batch before it is written back, and its bytes are the ledger that is released. A batch that is
late begins an overrun and is released later, at a tick that is a multiple of 16, once nothing makes it wait; a batch's
members are final after its turn. -/
def Obligations.Releases : Prop :=
  ∀ (s : State) (n : Nat) (b : Batch) (rest : AMap Batch),
    s.prs.batches = (n, b) :: rest → s.ticking = true →
    (s.trn.tick = 0 → s.trn.fresh = true → s.trn.turn = n + 2 → s.trn.turn ≠ s.trn.start → s.isComplete n = true →
      b.missed = false → b.readyAt < deadlineOf n → s.relWaits = false → s.memWf → s.pressWf →
      ∃ u, exec .releasePoint s = .next u ∧ u.prs.relBatch = some n ∧ u.prs.back = b.staged ∧
        u.prs.batches.find n = rest.find n ∧ u.trn.fresh = false ∧
        ∀ a, (s.via.jrn.ddr = true → a < s.via.jrn.base ∨ s.via.jrn.base + s.via.jrn.size ≤ a) →
          u.relByte a = (getByte b.staged a).getD (s.relByte a)) ∧
    (n + 2 ≤ s.trn.turn → s.trn.fresh = false → s.trn.turn ≠ s.trn.start → s.isComplete n = true →
      (s.relWaits = false → s.trn.tick % 16 = 0 → b.readyAt + 16 ≤ s.now →
        ∃ u, exec .slippedRelease s = .next u ∧ u.prs.relBatch = some n ∧ u.prs.back = b.staged) ∧
      (s.relWaits = true → ∃ u, exec .slippedRelease s = .next u ∧ bit u.prs.status 1 = true ∧
        u.prs.batches = s.prs.batches ∧ u.prs.relBatch = s.prs.relBatch ∧ u.mem = s.mem ∧ u.engs = s.engs)) ∧
    (s.trn.turn = n + 1 → 65519 ≤ s.trn.tick → s.trn.start < s.trn.turn → b.missed = false → s.isComplete n = false →
      ∃ u, exec .commitDeadline s = .next u ∧ (u.prs.batches.get n {}).missed = true ∧ bit u.prs.status 1 = true ∧
        bit u.prs.status 2 = (bit s.prs.status 2 || !bit s.prs.status 1) ∧ u.mem = s.mem ∧ u.engs = s.engs) ∧
    (n < s.trn.turn → ∃ u, exec .batchMembershipFinal s = .next u ∧ u.isFinal n = true ∧ u.prs.txs = s.prs.txs ∧
      (s.via.jrn.next = [] → u.mem = s.mem ∧ u.via = s.via))

/-- R61, R128, R129, R131, R134, R135: a slice's release mark writes back its lines; a placement point, at tick 0, with the loop off or
an overrun in progress is skipped and counted, and either way the counts begin again and TURN_OUT rises if its rise is due;
a wheel move that completes changes the home map. -/
def Obligations.Placement : Prop :=
  ∀ s : State,
    (∀ (v : VatId) (n : Nat), s.prs.relBatch = some n → ∃ u, exec (.releaseMark v) s = .next u ∧ u.prs.marks.contains v.val = true ∧
      u.prs.back = s.prs.back.filter (fun c => !decide (s.homeVat c.1 = v.val)) ∧ u.engs = s.engs ∧
      (s.memWf → s.pressWf → ∀ a, u.relByte a = s.relByte a)) ∧
    (s.prs.select = false ∨ s.trn.tick ≠ 0 → exec .placementSelection s = .next s) ∧
    (s.prs.select = true → s.trn.tick = 0 → s.trn.fresh = false → (bit s.prs.plcCtl 0 = false ∨ bit s.prs.status 1 = true) →
      ∃ u, exec .placementSelection s = .next u ∧
        u.prs = { s.prs with select := false, plcStatus := satFld s.prs.plcStatus 31 16 1, wheels := [] } ∧
        u.dev.turnOut = (s.trn.rise || s.dev.turnOut) ∧ u.trn = { s.trn with rise := false } ∧ u.mem = s.mem ∧
        u.engs = s.engs) ∧
    (s.prs.select = true → s.trn.tick = 0 → s.trn.fresh = false → bit s.prs.plcCtl 0 = true → bit s.prs.status 1 = false →
      ∃ u, exec .placementSelection s = .next u ∧ u.prs.select = false ∧ u.prs.wheels = [] ∧ u.prs.home = s.prs.home ∧
        u.dev.turnOut = (s.trn.rise || s.dev.turnOut) ∧ u.mem = s.mem ∧ u.engs = s.engs) ∧
    (∀ w byte, s.prs.moving.find w = some (byte, 0) → ∃ u, exec (.wheelMoveComplete w) s = .next u ∧
      u.homeByte w = BitVec.ofNat 8 byte ∧ (∀ x, x ≠ w → u.homeByte x = s.homeByte x) ∧ u.engs = s.engs ∧
      fld u.prs.plcStatus 63 32 = min (fld s.prs.plcStatus 63 32 + 1) (2 ^ 32 - 1))

/-- R70, R472, R480, R482, R483, R485, R486: a POST or PEEK that passes every check is admitted under its order key, counted, and
touches no engine; a genuine HELLO is answered and admits nothing. A frame that fails a check before the lane key's is
dropped and counted, and one whose MAC does not match is dropped, counted, and counted at its lane; neither changes anything
but counts. A sequence that the window admits is a duplicate from then on. The turn and tick of a frame are those of its port
unit's receiver at its last byte, never later ones (R480, stamped). -/
def Obligations.Admission : Prop :=
  (∀ (s : State) (port sub : Fin 4) (f0 : RxFrame) (x : Lane) (k : List Byte),
     let f := s.stamped port.val f0
     Genuine s port.val sub.val f x k →
     (∀ row ∈ ([(Instr.post, 1, false), (Instr.peek, 2, true)] :
         List ((Fin 4 → Fin 4 → RxFrame → Instr) × Nat × Bool)), ∀ n c,
       numAt f.payload 1 1 = row.2.1 → Admissible s port.val sub.val f x row.2.2 n c →
       let key := orderKey n (min (numAt f.payload 2 1) x.classMax) (hLane f.payload) (hSeq f.payload)
       let idx := 16 * port.val + (if row.2.2 then cAdmitPeek else cAdmitPost)
       ∃ t, exec (row.1 port sub f0) s = .next t ∧
         t.prs.txs.find key = some {
           peek := row.2.2, turn := n, tick := f.tick, port := port.val, sub := sub.val, src := f.src,
           header := f.payload.take 32, payload := f.payload.drop 32, cfg := c.ver } ∧
         (∀ j, j ≠ key → t.prs.txs.find j = s.prs.txs.find j) ∧ t.prs.batches = s.prs.batches ∧ t.engs = s.engs ∧
         t.dev = s.dev ∧ t.trn = s.trn ∧ t.itk.cnt.get idx 0 = satAdd (s.itk.cnt.get idx 0) 1) ∧
     (numAt f.payload 1 1 = 3 → exec (.hello port sub f0) s =
       .next ((s.count port.val cRx).answer port.val sub.val f 0x84 0))) ∧
  (∀ row ∈ ([(Instr.post, 1), (Instr.peek, 2), (Instr.hello, 3)] : List ((Fin 4 → Fin 4 → RxFrame → Instr) × Nat)),
     ∀ (s : State) (port sub : Fin 4) (f0 : RxFrame) (k : List Byte),
       let f := s.stamped port.val f0
       numAt f.payload 1 1 = row.2 →
       let x := s.laneAt f.turn (hLane f.payload)
       let u := s.count port.val cRx
       (s.portsOn = true → ((s.sub port.val sub.val).takes f && qlfOk f) = false →
         exec (row.1 port sub f0) s = .next (u.count port.val cDropFmt)) ∧
       (s.portsOn = true → (s.sub port.val sub.val).takes f = true → qlfOk f = true → hLane f.payload < 1048576 →
         x.valid = true → x.keyv = true → s.laneKeyAt f.turn (hLane f.payload) = some k →
         macOf k f.payload (f.payload.drop 32) ≠ slice f.payload 20 12 →
         exec (row.1 port sub f0) s = .next ((u.modLane (hLane f.payload) fun x =>
           { x with nAuth := min (x.nAuth + 1) (2 ^ 32 - 1) }).count port.val cDropAuth))) ∧
  (∀ (l : Lane) (jump sq : Nat), l.test jump sq = .fresh → (l.take sq).test jump sq = .duplicate)

/-- R99, R472, R494, R495: ARP and Neighbor Solicitations for a sub-port's address are answered, a frame of no other row is
counted, a sub-port sends the oldest frame of its highest level that has one, a peek's RESULT that goes out in another turn
than it arrived in is counted late, and a link that goes down loses the sub-port's queues and counts each RESULT lost. -/
def Obligations.PortFrames : Prop :=
  ∀ (s : State) (port sub : Fin 4),
    let x := s.sub port.val sub.val
    (∀ row ∈ ([(Instr.arpRequest, 4), (Instr.neighborSolicitation, 6)] :
        List ((Fin 4 → Fin 4 → Nat → Addr → Instr) × Nat)), ∀ (target : Nat) (src : Addr),
      s.portsOn = true → x.set = true → x.ipver = row.2 → x.ip = target → x.up = true →
      ∃ t body, exec (row.1 port sub target src) s = .next t ∧
        t.sub port.val sub.val = { x with q3 := x.q3 ++ [(src, body)] } ∧ t.prs = s.prs ∧ t.engs = s.engs) ∧
    (∀ ovf, s.portsOn = true → exec (.droppedFrame port sub ovf) s =
      .next ((s.count port.val cRx).count port.val (if ovf then cDropOvf else cDropFmt))) ∧
    (∀ d b r, x.up = true → s.portsOn = true → (x.q1 = (d, b) :: r ∨ x.q1 = [] ∧ x.q2 = (d, b) :: r ∨
        x.q1 = [] ∧ x.q2 = [] ∧ x.q3 = (d, b) :: r) →
      ∃ t, exec (.frameTransmit port sub) s = .next t ∧ t.out = .frame port.val sub.val d b :: s.out ∧
        (t.sub port.val sub.val).q1 ++ (t.sub port.val sub.val).q2 ++ (t.sub port.val sub.val).q3 =
          (x.q1 ++ x.q2 ++ x.q3).tail ∧ t.engs = s.engs ∧
        t.prs = { s.prs with count :=
          if x.q1 = [] ∧ x.q2 ≠ [] ∧ numAt b 16 4 ≠ s.trn.turn % 2 ^ 32 then satFld s.prs.count 15 0 1 else s.prs.count }) ∧
    (∃ t, exec (.linkDown port sub) s = .next t ∧
      t.sub port.val sub.val = { x with up := false, q1 := [], q2 := [], q3 := [] } ∧ t.prs = s.prs ∧ t.engs = s.engs ∧
      (t.itk.cnt.get (16 * port.val + cTxLost) 0).toNat =
        min ((s.itk.cnt.get (16 * port.val + cTxLost) 0).toNat + x.q1.length + x.q2.length) (2 ^ 64 - 1))

/-- R47, R48, R498, R499: the servo follows the master it selected: a one-step Sync gives the offset, and a two-step one with
its Follow_Up, from the timestamps that ILAT corrects; a Delay_Resp to the last Delay_Req gives the path delay; an Announce
that comes before every other and the device's own data set makes its sender the master; a Delay_Req is sent, with its own
timestamp, while a master is followed. The offset moves the time counter, and a generator disciplined by PTP takes its
phase from it, with the offset as the reference's own error. The sign of the offset is the model's (log 26). -/
def Obligations.PtpServo : Prop :=
  ∀ (s : State) (port sub : Fin 4) (g : PtpMsg),
    let u := s.count port.val cRx
    let p := s.itk.ptp
    (s.portsOn = true → s.ptpTakes port.val sub.val g = true →
      (p.master = some g.sender →
        (g.twoStep = false → exec (.sync port sub g) s = .next (u.syncAt (g.origin + g.corr) (p.arrival g.stamp))) ∧
        (g.twoStep = true → exec (.sync port sub g) s =
          .next (u.modPtp fun p => { p with awaits := some (g.seq, p.arrival g.stamp, g.corr) })) ∧
        (∀ t2 corr, p.awaits = some (g.seq, t2, corr) →
          exec (.followUp port sub g) s = .next (u.syncAt (g.origin + g.corr + corr) t2)) ∧
        (∀ t3, p.req = some (g.seq, t3) → exec (.delayResp port sub g) s = .next (u.modPtp fun p => { p with
          interval := g.interval, req := none, delay := (p.ms + (g.origin - g.corr - t3)) / 2 })) ∧
        (p.req = none → exec (.delayResp port sub g) s = .next (u.modPtp fun p => { p with interval := g.interval }))) ∧
      ∃ t, exec (.announce port sub g) s = .next t ∧ { t with itk := s.itk } = s ∧
        t.itk.ptp.heard = (p.heard.filter fun h => h.1 ≠ g.sender && !g.gone.contains h.1) ++ [(g.sender, g.data)] ∧
        (ptpOverOwn g.data = true →
          (∀ h ∈ p.heard, h.1 ≠ g.sender → ptpPrecedes g.data h.2 g.sender h.1 = true) →
          t.itk.ptp.master = some g.sender)) ∧
    (p.master.isSome = true → s.portsOn = true →
      let q := fld s.trn.ctl 13 12
      (s.sub q 0).up = true → ∃ (b : Addr × List Byte) (stamp : Int), p.time ≤ stamp ∧ exec .delayReq s =
        .next ((s.draw.modPtp fun p => { p with seq := (p.seq + 1) % 2 ^ 16, req := some (p.seq, p.departure stamp) }).modSub q 0
          fun x => { x with q3 := x.q3 ++ [b] })) ∧
    (∀ t1 t2 : Int,
      let off := p.delay - (t2 - t1)
      let t := s.syncAt t1 t2
      t.itk.ptp.offset = off ∧ t.itk.ptp.time = p.time + off ∧ t.itk.ptp.synced = true ∧ t.itk.ptp.awaits = none ∧
      (s.trn.src = 0 → s.trn.disc = 1 → s.trn.held = false → s.ticking = true →
        t.trn = s.trn.judge off.natAbs (phaseOf (fld s.trn.ctl 63 47 * 1000) (p.time + off))))

/-- R425 to R427, R437: an accepted doorbell captures the mailbox's command as Viari's next in order of acceptance, clears
RSP, takes SEQ and sets STATE to POSTED; one that comes while a command is posted or running, or while Viari takes no
commands from the function, only sets DBLOST, and one with GO at 0 does nothing. A host write into the command area changes
8 bytes of it, and sets CMDWR while a command is posted or running. -/
def Obligations.Mailboxes : Prop :=
  ∀ (s : State) (fn : Fin 8) (m : Fin 64) (w : W64), s.fnLive fn.val = true →
    let x := s.mbox fn.val m.val
    let busy := fld x.stat 2 0 = 1 ∨ fld x.stat 2 0 = 2
    (w.toNat < 512 → bit w 8 = false → exec (.mbxDoorbell fn m w) s = .next s) ∧
    (w.toNat < 512 → bit w 8 = true → ¬ busy → s.vready fn.val = true → ∃ y,
      exec (.mbxDoorbell fn m w) s = .next ((s.modMbx fn.val m.val fun _ => y).modVia fun v => { v with
        nextId := v.nextId + 1
        queue := v.queue ++ [{ id := s.via.nextId, fn := fn.val, source := m.val, bytes := readBytes x.cmd 0 64 }] }) ∧
      y.cmd = x.cmd ∧ y.ctl = x.ctl ∧ y.rsp = List.replicate 64 0 ∧ fld y.stat 2 0 = 1 ∧ fld y.stat 63 56 = fld w 7 0 ∧
      ∀ i, 3 ≤ i → i < 56 → bit y.stat i = bit x.stat i) ∧
    (w.toNat < 512 → bit w 8 = true → busy ∨ s.vready fn.val = false → exec (.mbxDoorbell fn m w) s =
      .next (s.modMbx fn.val m.val fun x => { x with stat := setBit x.stat 7 true })) ∧
    (∀ o, o < 64 → o % 8 = 0 → ∃ y, exec (.registerWrite (.bar0 fn (0x100 * m.val + o)) w) s =
      .next (s.modMbx fn.val m.val fun _ => y) ∧ y = { x with cmd := writeBytes x.cmd o (toBytes 8 w.toNat), stat := y.stat } ∧
      (busy → bit y.stat 6 = true) ∧ (¬ busy → y.stat = x.stat))

/-- R428 to R433, R437: SQ_PI accepts the commands it covers; an enable with legal sizes takes RING_CTL's fields and starts
every index at 0 in phase 1, and one with other sizes leaves EN 0 and sets CFGERR; writing EN as 0 loses what is not
fetched; a fetch reads the slot of SQ_CI and takes the next command of the ring, and one whose read failed stops the ring
with FETCHERR and RINGERR; CQ_CI lets held completions be written; and the coalescing timer announces what is not yet
announced. -/
def Obligations.Rings : Prop :=
  ∀ (s : State) (fn n : Fin 8) (w : W64), s.fnLive fn.val = true →
    let r := (s.fn fn.val).ring n.val
    let c := r.ctlOf n.val
    let size := 2 ^ fld c 19 16
    let held := fld r.stat 15 8
    let goes (x : Answer) (r' : Ring) : Prop := x = .next (s.modRing fn.val n.val fun _ => r')
    (w.toNat < 2 ^ 16 → bit c 0 = true →
      let more := (w.toNat % size + size - r.sqPi % size) % size
      exec (.sqPiWrite fn n w) s = .next ((s.modVia fun v => { v with nextId := v.nextId + more }).modRing fn.val n.val
        fun r => { r with sqPi := w.toNat, order := r.order ++ (List.range more).map (s.via.nextId + ·) })) ∧
    (bit w 0 = true → bit c 0 = false → fld w 47 24 = 0 → fld w 15 14 = 0 → fld w 7 2 = 0 →
      (4 ≤ fld w 19 16 → fld w 19 16 ≤ fld w 23 20 → ∃ r', goes (exec (.ringEnable fn n w) s) r' ∧
        r'.sqPi = 0 ∧ r'.sqCi = 0 ∧ r'.cqPi = 0 ∧ r'.cqCi = 0 ∧ r'.phase = true ∧ bit r'.stat 0 = false ∧
        fld (r'.ctlOf n.val) 63 48 = fld w 63 48 ∧ fld (r'.ctlOf n.val) 23 16 = fld w 23 16 ∧
        fld (r'.ctlOf n.val) 13 8 = fld w 13 8 ∧ fld (r'.ctlOf n.val) 1 0 = fld w 1 0 ∧
        r'.sqBase = r.sqBase ∧ r'.cqBase = r.cqBase ∧ r'.held = r.held ∧ r'.order = r.order) ∧
      (fld w 19 16 < 4 ∨ fld w 23 20 < fld w 19 16 → ∃ r', goes (exec (.ringEnable fn n w) s) r' ∧
        bit (r'.ctlOf n.val) 0 = false ∧ bit r'.stat 1 = true ∧ r' = { r with ctl := r'.ctl, stat := r'.stat })) ∧
    (bit w 0 = false → bit c 0 = true → fld w 47 24 = 0 → fld w 15 14 = 0 → fld w 7 2 = 0 → fld w 23 16 = fld c 23 16 →
      ∃ r', goes (exec (.ringDisable fn n w) s) r' ∧ bit (r'.ctlOf n.val) 0 = false ∧ r'.order = r.order.take held ∧
        bit r'.stat 0 = decide (held = 0) ∧ r' = { r with ctl := r'.ctl, stat := r'.stat, order := r'.order }) ∧
    (w.toNat < 2 ^ 16 →
      let u := s.modRing fn.val n.val fun r => { r with cqCi := w.toNat }
      exec (.cqCiWrite fn n w) s = .next (State.flushRing fn.val n.val 16 u) ∧
      (r.held = [] → exec (.cqCiWrite fn n w) s = .next u)) ∧
    (bit c 0 = true → s.vready fn.val = true → r.sqCi % size ≠ r.sqPi % size → held < 16 →
      let read := s.emit (.dmaRead fn.val (r.sqBase.toNat + 64 * r.sqCi) 64)
      (∀ d id, r.order[held]? = some id → ∃ r',
        exec (.commandFetch fn n (some d)) s = .next ((read.modRing fn.val n.val fun _ => r').modVia fun v => { v with
          queue := putCmd ⟨id, fn.val, 64 + n.val, slice d 0 64, false⟩ v.queue }) ∧
        r'.sqCi = (r.sqCi + 1) % size ∧ fld r'.stat 15 8 = held + 1 ∧ r'.order = r.order ∧ r'.sqPi = r.sqPi ∧
        r'.ctl = r.ctl) ∧
      (∃ t, exec (.commandFetch fn n none) s = .next t ∧ t.via = s.via ∧ t.engs = s.engs ∧ t.mem = s.mem ∧
        bit (((t.fn fn.val).ring n.val).ctlOf n.val) 0 = false ∧ bit ((t.fn fn.val).ring n.val).stat 2 = true ∧
        bit (t.fn fn.val).stat 2 = true ∧ ((t.fn fn.val).ring n.val).order = r.order.take held)) ∧
    (r.unannounced ≠ 0 → fld c 55 48 ≠ 0 → exec (.coalescingTimer fn n) s =
      let u := s.modRing fn.val n.val fun r => { r with unannounced := 0 }
      .next (if bit c 1 then u.msix fn.val (fld c 13 8) else u))

/-- R9, R418, R434, R436, R441, R442, R627: a function in reset, or not enabled, discards register writes; NumVFs, Function
Mask and MSI-X Enable take their values; an enable of the event ring with a legal size starts it; a vector that is unmasked
sends its pending message; a function-level reset of a VF returns it to reset and discards its waiting commands; PERST_N low
returns the host interface alone to reset, and PERST_N high brings the link up, its receivers adapted and its speed as the strap
holds, where the device is powered and neither the boundary-scan hold nor a waiting cold reset keeps it down (R553, R578, R617,
R618, R628). The layout of the MSI-X table in BAR4 and of Message Control is the model's, presumed from the PCI Express standard
(log 29). -/
def Obligations.Functions : Prop :=
  ∀ (s : State) (fn : Fin 8) (w : W64),
    let x := s.fn fn.val
    (∀ off, s.fnLive fn.val = false → exec (.registerWrite (.bar0 fn off) w) s = .next s) ∧
    (s.fnLive fn.val = true → ∀ n : Fin 8, bit ((x.ring n.val).ctlOf n.val) 0 = false → w.toNat % 2 ^ 12 = 0 → ∃ r,
      exec (.registerWrite (.bar0 fn (0x4100 + 0x40 * n.val)) w) s = .next (s.modRing fn.val n.val fun _ => r) ∧
      r = { x.ring n.val with sqBase := r.sqBase } ∧ fld r.sqBase 63 12 = fld w 63 12) ∧
    (s.fnLive 0 = true → s.host.vfs ≤ fld w 2 0 →
      exec (.registerWrite .numVfs w) s = .next { s with host := { s.host with vfs := fld w 2 0 } }) ∧
    (s.fnLive fn.val = true → x.pend = 0 → exec (.registerWrite (.msixCtl fn) w) s =
      .next (s.modFn fn.val fun x => { x with msixOn := bit w 15, fmask := bit w 14 })) ∧
    (s.fnLive fn.val = true → bit w 0 = true → bit x.evqCtl 0 = false → fld w 63 48 = 0 → fld w 39 20 = 0 →
      fld w 15 14 = 0 → fld w 7 2 = 0 → 4 ≤ fld w 19 16 → ∃ y, exec (.evqEnable fn w) s = .next (s.modFn fn.val fun _ => y) ∧
        y = { x with evqCtl := y.evqCtl, evqPi := 0, evqCi := 0, evqPhase := true } ∧ bit y.evqCtl 0 = true ∧
        fld y.evqCtl 47 40 = fld w 47 40 ∧ fld y.evqCtl 19 16 = fld w 19 16 ∧ fld y.evqCtl 13 8 = fld w 13 8) ∧
    (∀ vec : Fin 64, s.fnLive fn.val = true → (∀ v, v < 64 → v ≠ vec.val → bit x.pend v = true → bit x.mask v = true) →
      let u := s.modFn fn.val fun x => { x with mask := setBit x.mask vec.val false }
      (bit x.pend vec.val = false ∨ x.fmask = true → exec (.msixUnmask fn vec) s = .next u) ∧
      (bit x.pend vec.val = true → x.fmask = false → x.msixOn = true → exec (.msixUnmask fn vec) s =
        .next { u.modFn fn.val (fun x => { x with pend := setBit x.pend vec.val false }) with
          out := .msix fn.val vec.val (x.vec vec.val).1.toNat (x.vec vec.val).2 :: s.out })) ∧
    (∀ vec : Fin 64, s.fnLive fn.val = true →
      let put (m : W64 × BitVec 32) : State := s.modFn fn.val fun x => { x with vecs := x.vecs.put vec.val m }
      exec (.registerWrite (.bar4 fn (16 * vec.val)) w) s = .next (put (setFld w 1 0 0, (x.vec vec.val).2)) ∧
      exec (.registerWrite (.bar4 fn (16 * vec.val + 4)) w) s =
        .next (put (setFld (x.vec vec.val).1 63 32 (fld w 31 0), (x.vec vec.val).2)) ∧
      (x.pend = 0 → exec (.registerWrite (.bar4 fn (16 * vec.val + 8)) w) s =
        .next ((put ((x.vec vec.val).1, w.setWidth 32)).modFn fn.val fun x => { x with mask := setBit x.mask vec.val (bit w 32) })) ∧
      (x.pend = 0 → exec (.registerWrite (.bar4 fn (16 * vec.val + 12)) w) s =
        .next (s.modFn fn.val fun x => { x with mask := setBit x.mask vec.val (bit w 0) }))) ∧
    (s.fnHere fn.val = true → fn.val ≠ 0 → ∃ t, exec (.functionLevelReset fn) s = .next t ∧ t.fn fn.val = { flr := true } ∧
      (∀ c ∈ t.via.queue, c ∈ s.via.queue ∧ c.fn ≠ fn.val) ∧
      (∀ k r, s.via.runs.find k = some r → r.cmd.fn = fn.val → t.via.runs.find k = some { r with mute := true }) ∧
      t.host.vfs = s.host.vfs ∧ (∀ f, f ≠ fn.val → t.fn f = s.fn f) ∧ { t with host := s.host, via := s.via } = s) ∧
    (exec (.flrComplete fn) s = .next (s.modFn fn.val fun x => { x with flr := false })) ∧
    (∃ t, exec .perstNFall s = .next t ∧ t.host = {} ∧ (∀ c ∈ t.via.queue, 8 ≤ c.fn) ∧
      (∀ k r, s.via.runs.find k = some r → r.cmd.fn < 8 → t.via.runs.find k = some { r with mute := true }) ∧
      { t with host := s.host, via := s.via } = s) ∧
    (let up := { s.host with perst := true }
     (s.dev.pwrgood = true → s.dev.bscan = false → s.dev.coldWait = none → ∃ t, exec .perstNRise s = .next t ∧
       t.host = { up with linkUp := true, gen4 := s.dev.straps.getLsbD 3 } ∧
       { t with host := s.host, fresh := s.fresh, pwr := { t.pwr with coefs := s.pwr.coefs } } = s) ∧
     (s.dev.pwrgood = false ∨ s.dev.bscan = true ∨ s.dev.coldWait.isSome = true →
       exec .perstNRise s = .next { s with host := up }))

/-- R442: a function-level reset of the PF clears VF Enable, and resets the PF and every VF as R441 says: their registers
return to reset, their accepted commands that have not started are discarded, those that run answer nothing. -/
def Obligations.PfFunctionReset : Prop :=
  ∀ s : State, s.fnHere 0 = true → ∃ t, exec (.functionLevelReset 0) s = .next t ∧ t.host.vfs = 0 ∧
    (∀ f, f < 8 → t.fn f = { flr := decide (f = 0) }) ∧ (∀ c ∈ t.via.queue, c ∈ s.via.queue ∧ 8 ≤ c.fn) ∧
    (∀ k r, s.via.runs.find k = some r → t.via.runs.find k = some { r with mute := r.mute || decide (r.cmd.fn < 8) }) ∧
    { t with host := s.host, via := s.via } = s

/-- R328 to R333, R441, R510: TLBI_CMD with any of its four operations is accepted by a vat that is not busy, which takes its
TOKEN and sets BUSY, and the write waits at one that is, or behind an earlier write of its sender; when the vat completes,
its engines' store buffers are written, the entries that the request names have left the vat's TLB and the L1 TLBs of its
engines and every other entry stays, and BUSY is 0. That the entries stay until the vat completes is the model's reading
(log 34). A host whose function 0 cannot be reached or is in reset writes nothing. -/
def Obligations.TlbInvalidation : Prop :=
  (∀ row ∈ ([(Instr.tlbiVa, 1), (Instr.tlbiRoot, 2), (Instr.tlbiFrame, 3), (Instr.tlbiAll, 4)] :
      List ((VatId → Who → W64 → Instr) × Nat)), ∀ (s : State) (v : VatId) (who : Who) (w : W64),
    let x := s.vat v.val
    let first := ∀ h ∈ x.held, h.1 ≠ who
    (s.fnLive 0 = false → fld w 2 0 = row.2 → exec (row.1 v .host w) s = .next s) ∧
    (x.inReset = false → fld w 2 0 = row.2 → (who = .host → s.fnLive 0 = true) →
    (bit x.tlbiStat 0 = false → first → ∃ t y, exec (row.1 v who w) s = .next t ∧
      t.vat v.val = { x with tlbiReq := some (x.tlbiArg, w), tlbiStat := y } ∧ bit y 0 = true ∧
      fld y 63 48 = fld w 63 48 ∧ (bit y 1 = true ↔ bit x.tlbiStat 1 = true ∨ fld w 47 8 ≠ 0 ∨ fld w 4 3 ≠ 0) ∧
      { t with vats := s.vats } = s ∧ ∀ u, u ≠ v.val → t.vat u = s.vat u) ∧
    (bit x.tlbiStat 0 = true ∨ ¬ first → exec (row.1 v who w) s =
      .next (s.modVat v.val fun x => { x with held := x.held ++ [(who, 0x9818, w, 0)] })))) ∧
  (∀ (s : State) (v : VatId) (arg cmd : W64), (s.vat v.val).tlbiReq = some (arg, cmd) → (s.vat v.val).held = [] →
    let keep (l : List Tlb) := l.filter fun t => !tlbNamed arg cmd t
    ∃ t, exec (.tlbiComplete v) s = .next t ∧
      t.vat v.val = { s.vat v.val with
        tlb := keep (s.vat v.val).tlb, tlbiReq := none, tlbiStat := setBit (s.vat v.val).tlbiStat 0 false } ∧
      (∀ e, vatOf e = v.val → (t.eng e).mem.itlb = keep (s.eng e).mem.itlb ∧
        (t.eng e).mem.dtlb = keep (s.eng e).mem.dtlb ∧ (t.eng e).mem.sbuf = [] ∧ (t.eng e).t = (s.eng e).t ∧
        (t.eng e).cr = (s.eng e).cr) ∧
      (∀ e, vatOf e ≠ v.val → t.eng e = s.eng e) ∧ (∀ u, u ≠ v.val → t.vat u = s.vat u) ∧ t.prs = s.prs ∧
      t.trn = s.trn ∧ t.mem.keys = s.mem.keys)

/-- R9, R10, R412, R420, R506 to R515, R518: what control space writes and reads do: a register takes the value in its RW
fields and clears W1C bits that are written as 1; a signal sets CR.VS's bit; SRAM_DATA and RN_PDATA2 reach local SRAM and the
patch RAM of an engine held in reset, and move on; a write through a window reaches exactly its members, or waits at a member
for the requester's earlier one, and a read gives the reduction of their values once the requester's writes are complete; a
vat in reset takes nothing; the host's write of anything it may not write changes nothing but WRDENY, and its writes reach
nothing while function 0 cannot be reached or is in reset (R441); Viari's own register writes leave the admission and power
registers to POLICY_WRITE (R492, R556). That an access to SRAM_DATA which is not carried out leaves SRAM_ADDR.WORD as it is, is
the model's reading of R510 and R511 (log 33). Each of the five answers a next state under conditions on the state alone:
engSignal, sramData, rnPdata2, vcsGroupWrite, vcsGroupRead. -/
def Obligations.ControlSpace : Prop :=
  (∀ (l : Layout) (old w : W64) (i : Nat), bit (l.write old w) i =
    if bit l.rw i then bit w i else if bit l.w1c i then bit old i && !bit w i else bit old i) ∧
  ∀ (s : State) (e : EngId) (who : Who) (w : W64),
    let g := s.eng e.val
    let x := s.vat (vatOf e.val)
    let mine (p : Who) : Prop := x.inReset = false ∧ ∀ h ∈ x.held, h.1 ≠ p
    let reaches := who = .host → s.fnLive 0 = true
    (mine who → reaches →
      (bit w 0 = true → exec (.engSignal e who w) s = .next (s.modEng e.val fun g => { g with
        cr := { g.cr with vs := true }, rsvwr := g.rsvwr || decide (1 < w.toNat) })) ∧
      (bit w 0 = false → exec (.engSignal e who w) s = .next (s.modEng e.val fun g => { g with
        rsvwr := g.rsvwr || decide (1 < w.toNat) }))) ∧
    (mine .viari →
      (g.inHold = true → exec (.sramData e (some w)) s = .next (s.modEng e.val fun g => { g with
        mem := { g.mem with sram := writeBytes g.mem.sram (8 * g.sramAddr) (toBytes 8 w.toNat) },
        sramAddr := (g.sramAddr + 1) % 2048 })) ∧
      (g.inHold = false → exec (.sramData e (some w)) s = .next (s.modEng e.val fun g => { g with rsvwr := true })) ∧
      (s.dev.mode = 1 ∨ g.mode ≠ .running → exec (.rnPdata2 e w) s = .next (s.modEng e.val fun g => { g with rn := { g.rn with
        paddr := (g.rn.paddr + 1) % 512
        patch := g.rn.patch.put g.rn.paddr
          (BitVec.ofNat 152 (g.rn.pdata0.toNat * 2 ^ 128 + g.rn.pdata1.toNat * 2 ^ 64 + w.toNat)) } })) ∧
      (s.dev.mode ≠ 1 → g.mode = .running → exec (.rnPdata2 e w) s = .next (s.modEng e.val fun g => { g with
        rn := { g.rn with stat := setBit g.rn.stat 1 true } }))) ∧
    (x.inReset = false → s.vcsBusy .viari = false →
      (g.inHold = true → exec (.sramData e none) s = .next ((s.modEng e.val fun g => { g with
        sramAddr := (g.sramAddr + 1) % 2048 }).emit
          (.value .viari (BitVec.ofNat 64 (ofBytes (readBytes g.mem.sram (8 * g.sramAddr) 8)))))) ∧
      (g.inHold = false → exec (.sramData e none) s =
        .next ((s.modEng e.val fun g => { g with rsvwr := true }).emit (.value .viari 0)))) ∧
    (∀ (win : Window) (off : Nat) (vs : List Nat), s.members (winNo win) = (vs, vs) → vs ≠ [] → off % 8 = 0 →
      off < 0x10000 → reaches →
      let n := winNo win
      let o := s.targets vs off
      let may := who = .viari ∨ hostMay n off = true
      let mode := match who with | .viari => (s.win n).rdCp | .host => (s.win n).rdHost
      (0x9800 ≤ off → off < 0xF000 → may → ∃ t, exec (.vcsGroupWrite who win off w) s = .next t ∧
        (∀ v ∈ vs, t.vat v = if s.holdsWrite who v off w then
          { s.vat v with held := (s.vat v).held ++ [(who, off, w, 0)] } else (s.vatWrite v off w).vat v) ∧
        (∀ v, v ∉ vs → t.vat v = s.vat v) ∧ { t with vats := s.vats } = s) ∧
      (off < 0x9800 → o.1 ≠ [] → may → (∀ v ∈ vs, ∀ h ∈ (s.vat v).held, h.1 ≠ who) → ∃ t,
        exec (.vcsGroupWrite who win off w) s = .next t ∧ (∀ j ∈ o.1, t.eng j = (s.engWrite j o.2 w).eng j) ∧
        (∀ j, j ∉ o.1 → t.eng j = s.eng j) ∧ { t with engs := s.engs } = s) ∧
      (0xF000 ≤ off → may → exec (.vcsGroupWrite who win off w) s = .next (s.winWrite who n off w)) ∧
      (who = .host → hostMay n off = false → exec (.vcsGroupWrite who win off w) s = .next s.denied) ∧
      (s.vcsBusy who = false →
        (0x9800 ≤ off → off < 0xF000 → exec (.vcsGroupRead who win off) s =
          .next (s.emit (.value who (reduce mode (vs.map fun v => s.vatRead v off))))) ∧
        (off < 0x9800 → o.1 ≠ [] → o.2 ≠ 0x308 → exec (.vcsGroupRead who win off) s =
          .next (s.emit (.value who (reduce mode (o.1.map fun j => s.engRead j o.2))))) ∧
        (0xF000 ≤ off → exec (.vcsGroupRead who win off) s = .next (s.emit (.value who (s.winRead who n off)))))) ∧
    (∀ win off, off < 0x10000 → s.vcsBusy who = true → exec (.vcsGroupRead who win off) s = .next s) ∧
    (∀ (v : VatId) off, off < 0x10000 → (s.vat v.val).inReset = true →
      exec (.vcsGroupWrite .viari (.unicast v) off w) s = .next s) ∧
    (s.fnLive 0 = false → exec (.engSignal e .host w) s = .next s ∧
      ∀ win off, off < 0x10000 → exec (.vcsGroupWrite .host win off w) s = .next s) ∧
    (∀ a, a % 8 = 0 → (0xF00001100000 ≤ a ∧ a < 0xF00001200000 ∨ 0xF00001600000 ≤ a ∧ a < 0xF00001700000) →
      exec (.registerWrite (.viari a) w) s = .next s) ∧
    (∀ n off, s.fnLive 0 = true → n < 81 → off < 0x10000 → hostMay n off = false →
      exec (.registerWrite (.bar2 (0x10000 * n + off)) w) s = .next s.denied) ∧
    (bit s.trn.ctl 0 = true → exec (.registerWrite (.viari 0xF00001000000) w) s = .next s) ∧
    (bit s.trn.ctl 0 = false → s.cfgMode = true → trnReserved w = false → periodBad w = false → fld w 46 44 = 0 →
      fld w 11 8 = 0 → fld w 3 2 = 0 →
      let u := s.modTrn fun t => { t with ctl := lTrn.write t.ctl w }
      exec (.registerWrite (.viari 0xF00001000000) w) s = .next (if bit w 0 then (u.runTurns u.firstTurn).startRecord 0 u.firstTurn else u))

/-- R422, R437, R438, R444, R447: Viari starts the next startable command in a free slot: one that fails a check ends at
once with its status and no effect, any other is running, and its mailbox shows RUNNING. -/
def Obligations.CommandStarts : Prop :=
  ∀ (s : State) (k : Nat) (c : Cmd), (List.range 16).find? (fun k => (s.via.runs.find k).isNone) = some k →
    s.nextCmd = some c → s.vready c.fn = true → s.romOnly = false →
    let q := s.via.queue.filter fun d => d.id ≠ c.id
    ∃ t, exec .commandStart s = .next t ∧ t.via.queue = q ∧ t.via.rr = c.fn ∧ t.engs = s.engs ∧ t.mem = s.mem ∧
      t.prs = s.prs ∧ t.itk = s.itk ∧ t.trn = s.trn ∧
      (s.checkCmd c = none → t.via.runs = s.via.runs.put k { cmd := c } ∧ t.out = s.out ∧
        (c.source < 64 → fld (t.mbox c.fn c.source).stat 2 0 = 2)) ∧
      (∀ st, s.checkCmd c = some st → t.via.runs = s.via.runs ∧
        t.via.recs = addRec s.via.recs ⟨c.id, c.fn, c.source, numAt c.bytes 4 4, 3, st, List.replicate 44 0⟩ ∧
        (c.source < 64 → (t.mbox c.fn c.source).rsp = toBytes 2 st ++ [0, 0] ++ toBytes 4 (numAt c.bytes 4 4) ++
          toBytes 8 s.trn.turn ++ List.replicate 48 0 ∧ fld (t.mbox c.fn c.source).stat 2 0 = 3))

/-- R444, R451, R452, R458, R462, R466, R467, R470: what each command of Viari that only reports answers. Each of the
thirteen ends in a next state (Ended) under conditions on the state alone: devInfo, turnStatus, cfgQuery, rplStatus, fwInfo,
cmdStatus, policyRead, vcsRead, laneRead, jrnRead, caveRead, caveFirst, sramRead. -/
def Obligations.ViariReports : Prop :=
  ∀ (s : State) (k : Fin 16) (r : Run), s.via.runs.find k.val = some r →
    let c := r.cmd
    let p := s.via.rpl
    let w := s.via.fw
    let ver (x : Option CfgSet) : List Byte := toBytes 4 (x.elim 0 CfgSet.ver) ++ toBytes 6 (x.elim 0 CfgSet.eff)
    (∀ row ∈ ([
        (Instr.devInfo k, 0x0001, [BitVec.ofNat 8 s.dev.mode, 0] ++ toBytes 2 s.live ++ toBytes 4 s.fwVersion ++
          toBytes 8 (s.feat 0 0).toNat ++ toBytes 8 (s.feat 0 1).toNat ++
          toBytes 4 ((s.setFor s.trn.turn).elim 0 CfgSet.ver) ++ toBytes 4 0 ++ toBytes 6 (s.prs.relBatch.getD 0)),
        (Instr.turnStatus k, 0x0502, toBytes 8 s.trn.ctl.toNat ++ toBytes 8 s.trn.status.toNat ++
          toBytes 8 (s.trn.turn * 2 ^ 16 + s.trn.tick) ++ toBytes 8 s.prsStatus.toNat),
        (Instr.cfgQuery k, 0x0305, ver (s.setFor s.trn.turn) ++ ver s.pendingSets[0]? ++ ver s.pendingSets[1]? ++
          [if s.via.stage.isSome then 1 else 0, 0] ++ toBytes 4 (s.heldSets.head?.elim 0 CfgSet.ver)),
        (Instr.rplStatus k, 0x0704, toBytes 6 p.lastCmp ++ toBytes 6 (p.diverged.getD 0) ++
          [if p.diverged.isSome then 2 else if s.rplWaits then 1 else 0])] : List (Instr × Nat × List Byte)),
      c.code = row.2.1 → s.trn.turn < 2 ^ 48 → s.trn.tick < 2 ^ 16 → Ended (exec row.1 s) s k.val r 0 row.2.2) ∧
    (c.code = 0x0103 → ∀ b, w.running = some b → Ended (exec (.fwInfo k) s) s k.val r 0
      ([BitVec.ofNat 8 b, BitVec.ofNat 8 w.sel, if w.once then 1 else 0, BitVec.ofNat 8 w.valid.toNat] ++
        toBytes 4 (numAt (w.bank 0) 0 4) ++ toBytes 4 (numAt (w.bank 1) 0 4) ++ toBytes 2 w.upatch)) ∧
    (c.code = 0x0004 →
      (s.findCmd c.fn (c.n 8 4) (c.b 12) c.id = none → Ended (exec (.cmdStatus k) s) s k.val r 0 [0]) ∧
      ∀ id st status res, s.findCmd c.fn (c.n 8 4) (c.b 12) c.id = some (id, st, status, res) →
        Ended (exec (.cmdStatus k) s) s k.val r 0 ([BitVec.ofNat 8 st, 0] ++ toBytes 2 status ++ slice res 0 44)) ∧
    (c.code = 0x0006 → devBase + 0x510000 ≤ c.n 8 8 → c.n 8 8 % 8 = 0 → Ended (exec (.policyRead k) s) s k.val r 0
      (toBytes 8 (s.blockRead (c.n 8 8 - devBase)).toNat)) ∧
    (devBase ≤ c.n 8 8 → c.n 8 8 < devBase + 0x510000 →
      let x := c.n 8 8 - devBase
      let v (who : Who) (mode : Option Nat) := s.vcsRead who (x / 0x10000) (x % 0x10000) mode
      (c.code = 0x0006 → s.vcsBusy .viari = false →
        Ended (exec (.policyRead k) s) (v .viari none).1 k.val r 0 (toBytes 8 (v .viari none).2.toNat)) ∧
      (c.code = 0x0A00 → s.vcsBusy .host = false →
        Ended (exec (.vcsRead k) s) (v .host (some (c.b 16))).1 k.val r 0 (toBytes 8 (v .host (some (c.b 16))).2.toNat))) ∧
    (c.code = 0x0006 → c.n 8 8 < devBase + 0x510000 → s.vcsBusy .viari = true → exec (.policyRead k) s = .next s) ∧
    (c.code = 0x0A00 → s.vcsBusy .host = true → exec (.vcsRead k) s = .next s) ∧
    (r.mute = false → s.dmaOn c.fn = true → ∀ env : Env, (ueLines env) = [] → ∀ row ∈ ([
        ((fun o => Instr.laneRead k ⟨o, env⟩), 0x0601, true,
          ((List.range (c.n 12 4)).map fun i => (s.itk.lanes.get (c.n 8 3 + i) {}).bytes).flatten,
          fun m => toBytes 4 (m / 64)),
        ((fun o => Instr.jrnRead k ⟨o, env⟩), 0x0702,
          decide (c.n 8 8 + c.bufLen 16 ≤ s.via.jrn.made) && decide (s.via.jrn.made ≤ c.n 8 8 + s.via.jrn.size),
          (List.range (c.bufLen 16)).map fun i => s.via.jrn.bytes.get ((c.n 8 8 + i) % max 1 s.via.jrn.size) 0,
          fun m => toBytes 4 m),
        ((fun o => Instr.caveRead k o), 0x0800, true,
          ((List.range (c.n 10 2)).map fun i => s.cave.slotBytes (c.n 8 2 + i)).flatten,
          fun m => toBytes 2 (s.cave.rseq % 16384) ++ [0, 0] ++ toBytes 4 (m / 64)),
        ((fun o => Instr.caveFirst k o), 0x0801, true,
          readBytes s.cave.cur 0 4096 ++ if 8192 ≤ c.bufLen 16 then readBytes s.cave.prev 0 4096 else [],
          fun _ => [if s.cave.capv then 1 else 0]),
        ((fun o => Instr.sramRead k o), 0x0803, (s.eng (18 * c.b 8 + c.b 9)).inHold,
          readBytes (s.eng (18 * c.b 8 + c.b 9)).mem.sram 0 16384, fun _ => [])] :
        List ((DmaOut → Instr) × Nat × Bool × List Byte × (Nat → List Byte))),
      c.code = row.2.1 → row.2.2.1 = true →
        Ended (exec (row.1 none) s) (s.emit (.dma c.fn (c.n 16 8) row.2.2.2.1)) k.val r 0
          (row.2.2.2.2 row.2.2.2.1.length) ∧
        ∀ n, n < row.2.2.2.1.length → Ended (exec (row.1 (some n)) s)
          (s.emit (.dma c.fn (c.n 16 8) (row.2.2.2.1.take n))) k.val r 0x0201 (row.2.2.2.2 n))

/-- R126, R452, R460, R462 to R466, R470, R473, R488: what the commands for policy registers, turns, lanes, ports, the
journal, replay and vat control change, and what they answer. That a PORT_CONFIG which changes SPEED takes the port's links
down with their queues, and sets or clears its other sub-ports, is the model's reading (log 28). Each of the eleven ends in a
next state (Ended) under conditions on the state alone: policyWrite, turnConfig, turnStep, laneWrite, portConfig, recipePolicy,
vcsWrite, tlbInval, jrnConfig, jrnAck, rplSupply. -/
def Obligations.ViariChanges : Prop :=
  ∀ (s : State) (k : Fin 16) (r : Run), s.via.runs.find k.val = some r →
    let c := r.cmd
    (c.code = 0x0005 →
      let x := c.n 8 8 - devBase
      let w := (s.blockRead x &&& ~~~ c.w 24) ||| (c.w 16 &&& c.w 24)
      (s.policyOk x w = true → Ended (exec (.policyWrite k) s) (s.policyWrite x w) k.val r 0
        (toBytes 8 ((s.policyWrite x w).blockRead x).toNat)) ∧
      (s.policyOk x w = false → Ended (exec (.policyWrite k) s) s k.val r 0x0105 [])) ∧
    (c.code = 0x0500 → Ended (exec (.turnConfig k) s)
      ((s.modTrn fun t => { t with ctl := c.w 8, turn := c.n 16 6, first := true }).modVia fun v =>
        { v with turnSet := true }) k.val r 0 []) ∧
    (c.code = 0x0501 →
      let old := fld s.trn.status 23 19
      let n := min (c.b 8) (16 - old)
      old ≤ 16 → ∃ st, Ended (exec (.turnStep k) s) (s.modTrn fun t => { t with status := st }) k.val r
          (if n = c.b 8 then 0 else 1) [BitVec.ofNat 8 n, BitVec.ofNat 8 (c.b 8 - n)] ∧ fld st 23 19 = old + n) ∧
    (c.code = 0x0600 → c.n 8 3 + c.n 12 4 ≤ 2 ^ 20 → ∀ d,
      let e (i : Nat) : List Byte := slice (c.input 16 d) (64 * i) 64
      ((∀ i, i < c.n 12 4 → entryOk (e i) = true) → ∃ u, Ended (exec (.laneWrite k (some d)) s) u k.val r 0
          (toBytes 4 (c.n 12 4)) ∧
        { u with itk := { u.itk with
          lanes := s.itk.lanes, lanesOld := s.itk.lanesOld, rewritten := s.itk.rewritten } } = s ∧
        (∀ i, i < c.n 12 4 → u.itk.lanes.get (c.n 8 3 + i) {} = (s.itk.lanes.get (c.n 8 3 + i) {}).written (e i)) ∧
        (∀ l, l < c.n 8 3 ∨ c.n 8 3 + c.n 12 4 ≤ l → u.itk.lanes.get l {} = s.itk.lanes.get l {}) ∧
        (∀ l, l ∈ u.itk.rewritten ↔ l ∈ s.itk.rewritten ∨ c.n 8 3 ≤ l ∧ l < c.n 8 3 + c.n 12 4) ∧
        ∀ l, (u.itk.lanesOld.find l).getD (u.itk.lanes.get l {}) = (s.itk.lanesOld.find l).getD (s.itk.lanes.get l {})) ∧
      ((∃ i, i < c.n 12 4 ∧ entryOk (e i) = false) →
        Ended (exec (.laneWrite k (some d)) s) s k.val r 0x0102 []) ∧
      Ended (exec (.laneWrite k none) s) s k.val r 0x010A []) ∧
    (c.code = 0x0603 → c.b 8 < 4 →
      let p := c.b 8
      let here (q : Nat) : Bool := if c.b 9 < 2 then q = 0 else c.b 10 = 255 || q = c.b 10
      let same := s.itk.speed.find p = some (c.b 9)
      let old (q : Nat) : SubPort :=
        if same then s.sub p q else { s.sub p q with up := false, q1 := [], q2 := [], q3 := [] }
      ∃ u, Ended (exec (.portConfig k) s) u k.val r 0 [] ∧ u.itk.speed = s.itk.speed.put p (c.b 9) ∧
        (∀ q, q < 4 → here q = true → u.sub p q = { old q with
          set := true, ipver := c.b 11, udp := c.n 12 2, vlan := c.n 14 2, ip := c.n 16 16 }) ∧
        (∀ q, q < 4 → here q = false → u.sub p q = { old q with set := (s.sub p q).set && !decide (c.b 9 < 2) }) ∧
        (∀ o q, o ≠ p → q < 4 → u.sub o q = s.sub o q) ∧ (same → u.itk.cnt = s.itk.cnt) ∧
        u.itk.lanes = s.itk.lanes ∧ u.prs = s.prs ∧ u.trn = s.trn ∧ u.engs = s.engs ∧ u.mem = s.mem) ∧
    (c.code = 0x0405 → Ended (exec (.recipePolicy k) s) (s.modRecipe (c.n 8 2) fun x => { x with policy := c.b 10 })
      k.val r 0 []) ∧
    (c.code = 0x0A01 →
      let x := c.n 8 8 - devBase
      let u := if r.started then s else s.vcsWrite .host (x / 0x10000) (x % 0x10000) (c.w 16) (k.val + 1)
      (u.tagHeld (k.val + 1) = false → Ended (exec (.vcsWrite k) s) u k.val r 0 []) ∧
      (u.tagHeld (k.val + 1) = true → exec (.vcsWrite k) s = .next (u.started k.val))) ∧
    (c.code = 0x0A02 → (∀ v, v < 64 → (s.vat v).held = [] ∧ bit (s.vat v).tlbiStat 0 = (s.vat v).tlbiReq.isSome) →
      ∀ late, c.w 24 &&& late = 0 → ∃ u token, Ended (exec (.tlbInval k late) s) u k.val r 0 (toBytes 2 token) ∧
      (∀ v, v < 64 → bit (c.w 24) v = true → (s.vat v).inReset = false →
        (∀ e, vatOf e = v → ∀ x ∈ (u.eng e).mem.itlb ++ (u.eng e).mem.dtlb, tlbNamed (c.w 8) (c.w 16) x = false) ∧
        ∀ x ∈ (u.vat v).tlb, tlbNamed (c.w 8) (c.w 16) x = false) ∧
      (∀ v, bit (c.w 24) v = false → u.vat v = s.vat v ∧ ∀ e, vatOf e = v → u.eng e = s.eng e)) ∧
    (c.code = 0x0700 → c.b 8 < 2 → s.via.jrn.held = [] →
      let ddr := decide (c.b 8 = 1)
      let ring := Config.jrnRing s.via.fw.image
      let size := if ddr then ring.2 else c.bufLen 16
      ∃ u, Ended (exec (.jrnConfig k) s) u k.val r 0 (toBytes 8 size) ∧
      u.via = { s.via with jrnSet := true, jrn := { s.via.jrn with
        set := true, ddr := ddr, size := size, base := if ddr then rgnBase s.via.rgnFwd + ring.1 else c.n 16 8
        made := 0, used := 0, bytes := [] } } ∧
      u.engs = s.engs ∧ u.mem = s.mem ∧ u.trn = s.trn) ∧
    (c.code = 0x0701 →
      (c.n 8 8 < s.via.jrn.used ∨ s.via.jrn.made < c.n 8 8 → Ended (exec (.jrnAck k) s) s k.val r 0x0105 []) ∧
      (s.via.jrn.used ≤ c.n 8 8 → c.n 8 8 ≤ s.via.jrn.made → s.via.jrn.held = [] → ∃ u,
        Ended (exec (.jrnAck k) s) u k.val r 0 (toBytes 8 s.via.jrn.made) ∧
        u.via = { s.via with jrn := { s.via.jrn with used := c.n 8 8 } } ∧ u.engs = s.engs ∧ u.mem = s.mem)) ∧
    (c.code = 0x0703 → ∀ d,
      let l := recordsOf (c.bufLen 16 / 32) (c.input 16 d)
      let p := l.bind fun l => l.foldl (fun p x => p.bind fun p => p.take x) (some s.via.rpl)
      (∀ q, p = some q → Ended (exec (.rplSupply k (some d)) s) (s.modVia fun v => { v with rpl := q }) k.val r 0
        (toBytes 6 q.lastSup)) ∧
      (p = none → Ended (exec (.rplSupply k (some d)) s) s k.val r 0x0108 []) ∧
      Ended (exec (.rplSupply k none) s) s k.val r 0x010A [])

/-- R453 to R458, R327, R352, R575, R579: the commands for configuration sets and firmware: CFG_OPEN begins a set with the
next version, CFG_LOAD and CFG_ROOT fill it, CFG_ACTIVATE that passes its checks makes it pending with its turn, sets A in the
valid leaves of its tree and D in those that permit a write or have it, changes no other byte but those of its journal record,
and clears every instruction cache, CFG_ABANDON drops it; FW_STAGE writes the bank that is not running and makes it invalid, FW_VERIFY makes it valid again
when the image passes, and FW_SELECT writes the selection. Each answers a next state under conditions on the state and the
command alone: cfgOpen, cfgLoad, cfgRoot, cfgActivate, cfgAbandon, fwStage, fwVerify, fwSelect. -/
def Obligations.ViariSets : Prop :=
  ∀ (s : State) (k : Fin 16) (r : Run), s.via.runs.find k.val = some r →
    let c := r.cmd
    let w := s.via.fw
    (c.code = 0x0300 → s.via.stage = none → ∃ x : CfgSet, Ended (exec (.cfgOpen k) s)
        (s.modVia fun v => { v with stage := some x, nextVer := v.nextVer + 1 }) k.val r 0 (toBytes 4 s.via.nextVer) ∧
      x.ver = s.via.nextVer ∧ (c.b 8 ≠ 0 → x.descs = [] ∧ x.root = 0) ∧
      ∀ y, s.setFor s.trn.turn = some y → c.b 8 = 0 → x = { y with ver := s.via.nextVer, eff := 0 }) ∧
    (c.code = 0x0301 → c.b 8 = 1 → ∀ x d l, s.via.stage = some x →
      descsOf (c.bufLen 24 / 40 + 1) (c.input 24 d) = some l → Ended (exec (.cfgLoad k (some d)) s)
        (s.modVia fun v => { v with stage := some { x with descs := l } }) k.val r 0 (toBytes 4 (c.bufLen 24))) ∧
    (c.code = 0x0301 → c.b 8 ≠ 1 → ∀ d,
      let frames := (List.range ((c.bufLen 24 + 4095) / 4096)).map fun i => c.n 16 8 / 4096 + i
      s.via.stage.isSome = true → (∀ f ∈ frames, s.region (f * 4096) = .plain) →
      (∀ x ∈ s.heldSets, ∀ f ∈ frames, f ∉ s.setFrames x) → Ended (exec (.cfgLoad k (some d)) s)
        (s.wr (c.n 16 8) (c.input 24 d)) k.val r 0 (toBytes 4 (c.bufLen 24))) ∧
    (c.code = 0x0302 → ∀ x, s.via.stage = some x → rootsBad (c.w 8) (c.w 16) (c.w 24) (c.w 32) = false →
      Ended (exec (.cfgRoot k) s) (s.modVia fun v => { v with
        stage := some { x with root := c.w 8, xvec := c.w 16, tsbr := c.w 24, scrw := c.w 32 } }) k.val r 0 []) ∧
    (c.code = 0x0303 → r.started = false → ∀ x e, s.via.stage = some x → c.n 8 6 = e → s.pendingSets.length < 2 →
      s.effRange.1 ≤ e → e ≤ s.effRange.2 → (∀ p ∈ s.pendingSets, p.eff < e) →
      let s1 := s.cpErrors (s.setFrames x)
      let tree := s.treeOf x.root
      let leaf (p : Pte) : W64 := setBit (setBit p.w 7 true) 8 (bit p.w 8 || bit p.w 3)
      let ring (a : Nat) : Prop := s.via.jrn.ddr = true ∧ s.via.jrn.base ≤ a ∧ a < s.via.jrn.base + s.via.jrn.size
      (∀ check pa, s1.verifySet x = some (check, pa) → Ended (exec (.cfgActivate k) s) s1 k.val r 0x0108
        (toBytes 4 x.ver ++ toBytes 6 e ++ [BitVec.ofNat 8 check] ++ List.replicate 5 0 ++ toBytes 8 pa)) ∧
      (s1.verifySet x = none → ∃ u r', exec (.cfgActivate k) s = .next u ∧
        (s.memWf → (∀ l ∈ s.mem.poison, l / 64 ∉ s.setFrames x) →
          (∀ p ∈ tree, p.leaf = true → ∀ j, j < 8 → ¬ ring (p.pa + j) →
            readByte u.mem.bytes (p.pa + j) = (toBytes 8 (leaf p).toNat).getD j 0) ∧
          (∀ a, (∀ p ∈ tree, p.leaf = true → a < p.pa ∨ p.pa + 8 ≤ a) → ¬ ring a →
            readByte u.mem.bytes a = readByte s.mem.bytes a) ∧
          u.mem.keys = s.mem.keys ∧ (s.via.jrn.ddr = false → u.mem.poison = s.mem.poison)) ∧
        u.via.sets = s.via.sets ++ [{ x with eff := e }] ∧ u.via.stage = none ∧ u.prs = s.prs ∧ u.trn = s.trn ∧
        (∀ j, (u.eng j) = { s.eng j with mem := { (s.eng j).mem with icache := [] } }) ∧
        (u.via.runs = s.via.runs.drop k.val ∨ u.via.runs = s.via.runs.put k.val r' ∧ r'.started = true))) ∧
    (c.code = 0x0304 → s.via.stage.isSome = true → Ended (exec (.cfgAbandon k) s)
      (s.modVia fun v => { v with stage := none }) k.val r 0 []) ∧
    (c.code = 0x0100 → s.romOnly = true → ∀ d flash, Ended (exec (.fwStage k (some d) flash) s)
      (s.wr (c.n 8 4) (c.input 12 d)) k.val r 0 (toBytes 4 (c.bufLen 12))) ∧
    (c.code = 0x0100 → s.romOnly = false → ∀ d, ∃ x : Firmware,
      Ended (exec (.fwStage k (some d) true) s) (s.modFw fun _ => x) k.val r 0 (toBytes 4 (c.bufLen 12)) ∧
      x = { w with banks := w.banks.put w.stageBank (putAt (w.bank w.stageBank) (c.n 8 4) (c.input 12 d)),
                   valid := x.valid, recSeq := x.recSeq, recOk := x.recOk, copies := x.copies } ∧
      x.valid.getLsbD w.stageBank = false ∧ x.valid.getLsbD (1 - w.stageBank) = w.valid.getLsbD (1 - w.stageBank)) ∧
    (c.code = 0x0101 → s.romOnly = false → let b := w.bank w.stageBank
      (imageOk w.urom b = true → ∃ x : Firmware, Ended (exec (.fwVerify ⟨k, true⟩) s) (s.modFw fun _ => x) k.val r 0
          (sha384 (imageOf b)) ∧ x = { w with valid := x.valid, recSeq := w.recSeq + 1, recOk := true, copies := x.copies } ∧
        x.copies.get (x.recSeq % 2) [] = x.recBytes ∧
        x.valid.getLsbD w.stageBank = true ∧ x.valid.getLsbD (1 - w.stageBank) = w.valid.getLsbD (1 - w.stageBank)) ∧
      (imageOk w.urom b = true → Ended (exec (.fwVerify ⟨k, false⟩) s) s k.val r 0x0203 []) ∧
      (imageOk w.urom b = false → ∀ flash, Ended (exec (.fwVerify ⟨k, flash⟩) s) s k.val r 0x0108 [])) ∧
    (c.code = 0x0102 →
      (w.valid.getLsbD (c.b 8) = false → ∀ flash, Ended (exec (.fwSelect k flash) s) s k.val r 0x0106 []) ∧
      (w.valid.getLsbD (c.b 8) = true → Ended (exec (.fwSelect k false) s) s k.val r 0x0203 []) ∧
      (w.valid.getLsbD (c.b 8) = true → ∃ p, ∃ x : Firmware, Ended (exec (.fwSelect k true) s) (s.modFw fun _ => x) k.val r 0 [] ∧
        x = { w with sel := c.b 8, once := decide (c.b 9 = 1), prev := p, recSeq := w.recSeq + 1, recOk := true,
                     copies := x.copies } ∧ x.copies.get (x.recSeq % 2) [] = x.recBytes ∧
        (c.b 9 = 1 → w.once = false → p = w.sel)))

/-- R26, R115, R132, R334, R335, R364, R459 to R461, R502, R504: the ledger's commands: REGION_SET places the windows and
starts the home map again, LEDGER_MAP writes the page table entries that its buffer lists and no other byte, and empties the
TLB of every vat not in reset and the L1 TLBs of its engines, LEDGER_LOAD writes lines and continues the release chain,
LEDGER_READ reads the ledger as of the released batch, WHEEL_HOME moves wheels, at once in Standby, and KEY_SET writes the key
bytes of its frames. Each answers a next state under conditions on the state and the command alone: regionSet, ledgerMap,
ledgerLoad, ledgerRead, wheelHome, keySet. That an address which is no entry of the set's tables is out of range is the
model's choice (log 21), as is, in WHEEL_HOME, that a busy wheel moves too (log 41). -/
def Obligations.ViariLedger : Prop :=
  ∀ (s : State) (k : Fin 16) (r : Run), s.via.runs.find k.val = some r →
    let c := r.cmd
    (c.code = 0x0400 → ∀ fwh fwd,
      let ldg := lRgn.write s.via.rgnLdg (c.w 8)
      Config.fwWindows s.via.fw.image s.mem.ddrGib = (fwh, fwd) →
      (s.rgnsOk ldg fwh fwd = false → Ended (exec (.regionSet k) s) s k.val r 0x0105 []) ∧
      (s.rgnsOk ldg fwh fwd = true → (∀ x, s.setFor s.trn.turn = some x → ledgerLeaves (s.treeOf x.root) = []) → ∃ u,
        Ended (exec (.regionSet k) s) u k.val r 0 (toBytes 8 fwh.toNat ++ toBytes 8 fwd.toNat) ∧ u.via.rgnLdg = ldg ∧
        u.via.rgnFwh = fwh ∧ u.via.rgnFwd = fwd ∧ u.prs.home = (if bit ldg 0 then [] else s.prs.home) ∧ u.engs = s.engs ∧ u.trn = s.trn)) ∧
    (c.code = 0x0401 → (∀ v, v < 64 → (s.vat v).held = [] ∧ bit (s.vat v).tlbiStat 0 = (s.vat v).tlbiReq.isSome) →
      ∀ x d, s.setFor s.trn.turn = some x → s.pendingSets = [] →
      let n := c.bufLen 8 / 16
      let b := c.input 8 d
      let frames := frameSet (tableFrames x.root (s.treeOf x.root))
      let at_ (i : Nat) : Nat := numAt b (16 * i) 8
      (∀ i, i < n → at_ i % 8 = 0 ∧ at_ i / 4096 ∈ frames) → ∃ u,
        Ended (exec (.ledgerMap k (some d)) s) u k.val r 0 (toBytes 4 n) ∧ u.prs = s.prs ∧ u.trn = s.trn ∧
        (∀ v, v < 64 → (s.vat v).inReset = false → (u.vat v).tlb = []) ∧
        (∀ e, vatOf e < 64 → (s.vat (vatOf e)).inReset = false → (u.eng e).mem.itlb = [] ∧ (u.eng e).mem.dtlb = []) ∧
        (s.memWf → (∀ l ∈ s.mem.poison, l / 64 ∉ frames) → (∀ e, (s.eng e).mem.sbuf = []) →
          (∀ i, i < n → (∀ j, i < j → j < n → at_ j ≠ at_ i) → ∀ q, q < 8 →
            readByte u.mem.bytes (at_ i + q) = b.getD (16 * i + 8 + q) 0) ∧
          (∀ a, (∀ i, i < n → a < at_ i ∨ at_ i + 8 ≤ a) → readByte u.mem.bytes a = readByte s.mem.bytes a) ∧
          u.mem.keys = s.mem.keys)) ∧
    (c.code = 0x0402 → r.started = false → ∀ d,
      let pa := c.n 8 8
      let b := c.input 16 d
      let h := sha384 b
      let chain := sha384 (s.prs.chain ++ toBytes 8 pa ++ toBytes 4 (c.bufLen 16) ++ h)
      let v := s.finishRelease.wr pa b
      let w := v.modPrs fun p => { p with chain := chain }
      let u := w.jrnAppend (k.val + 1) (w.jrnRec 0x0004 w.trn.turn
        (toBytes 8 pa ++ toBytes 4 (c.bufLen 16) ++ List.replicate 4 0 ++ h ++ chain))
      (u.recordWaits k.val = false → Ended (exec (.ledgerLoad k (some d)) s) u k.val r 0 (toBytes 4 (c.bufLen 16))) ∧
      (u.recordWaits k.val = true → exec (.ledgerLoad k (some d)) s = .next (u.started k.val)) ∧
      v.mem.bytes = writeBytes s.finishRelease.mem.bytes pa b) ∧
    (c.code = 0x0403 → ∀ v : Env, r.mute = false → s.dmaOn c.fn = true →
      let bytes := (List.range (c.bufLen 16)).map fun i => s.relByte (c.n 8 8 + i)
      let res (m : Nat) : List Byte := toBytes 6 (s.prs.relBatch.getD 0) ++ [0, 0] ++ toBytes 4 m
      (∀ i, i < c.bufLen 16 / 64 → s.bad (ueLines v) (c.n 8 8 + 64 * i) = false) →
      Ended (exec (.ledgerRead k none v) s) (s.emit (.dma c.fn (c.n 16 8) bytes)) k.val r 0 (res (c.bufLen 16)) ∧
      ∀ n, n < c.bufLen 16 → Ended (exec (.ledgerRead k (some n) v) s)
        (s.emit (.dma c.fn (c.n 16 8) (bytes.take n))) k.val r 0x0201 (res n)) ∧
    (c.code = 0x0404 → r.started = false → ∀ d,
      let n := c.bufLen 8 / 4
      let wheel (i : Nat) : Nat := numAt (c.input 8 d) (4 * i) 3
      let home (i : Nat) : Byte := (c.input 8 d).getD (4 * i + 3) 0
      bit s.via.rgnLdg 0 = true → (∀ i, i < n → wheel i ≤ fld s.via.rgnLdg 63 44 ∧ (home i).getLsbD 6 = false) →
      (s.dev.mode = 3 → ∃ u, Ended (exec (.wheelHome k (some d)) s) u k.val r 0 (toBytes 4 n) ∧ u.engs = s.engs ∧
        u.trn = s.trn ∧ (∀ i, i < n → (∀ j, i < j → j < n → wheel j ≠ wheel i) → u.prs.home.find (wheel i) = some (home i)) ∧
        ∀ x, (∀ i, i < n → wheel i ≠ x) → u.prs.home.find x = s.prs.home.find x) ∧
      (s.dev.mode ≠ 3 → exec (.wheelHome k (some d)) s = .next ((s.modPrs fun p => { p with
        moves := p.moves ++ (List.range n).map fun i => ⟨wheel i, home i, k.val⟩ }).started k.val))) ∧
    (c.code = 0x0406 → s.memWf →
      let first := c.n 8 8 / 4096
      let n := c.n 16 4
      (∀ i, i < n → (isHbm ((first + i) * 4096) || s.isDdr ((first + i) * 4096)) = true) →
      (s.quiet = true ∨ ∀ i, i < n → inRgn s.via.rgnLdg ((first + i) * 4096) = false ∧
        ∀ x ∈ s.heldSets, first + i ∉ s.mappedFrames x) → ∃ u, Ended (exec (.keySet k) s) u k.val r 0 [] ∧
        (∀ i, i < n → readByte u.mem.keys (keyIdx ((first + i) * 4096)) = BitVec.ofNat 8 (c.b 20)) ∧
        (∀ x, (∀ i, i < n → keyIdx ((first + i) * 4096) ≠ x) → readByte u.mem.keys x = readByte s.mem.keys x) ∧
        u.prs = s.prs ∧ u.trn = s.trn)

/-- R464, R468, R469, R489, R596 to R601: the vault's commands: LANE_KEYS installs every lane key it unwraps or none, ATTEST
and ID_CERT send a report signed with the device identity and its certificate, OWNER_SET changes the owner and invalidates
every lane key, JMAC_ROLL adds a journal key for later turns, and a Test-Open permission needs the owner's signature over the
last challenge, and expires. A key put in the lane key table is wrapped under the root LKR, and the owner and that root in the
vault store under KP. While VDD_AON is low the vault is in reset: the four that change it answer STATE. -/
def Obligations.ViariVault : Prop :=
  ∀ (s : State) (k : Fin 16) (r : Run), s.via.runs.find k.val = some r →
    let c := r.cmd
    let v := s.via.vault
    let drawn (n : Nat) : List Byte := slice (Config.random v.draws n) 0 n
    (c.code = 0x0602 → ∀ d kt, v.kt = some kt →
      let n := c.n 12 4
      let e (i : Nat) : List Byte := slice (c.input 16 d) (64 * i) 64
      let key (i : Nat) : Option (List Byte) := unwrapKey kt (e i) (c.n 8 3 + i)
      (∀ i, i < n → numAt (e i) 60 4 = 0) →
      ((∀ i, i < n → (key i).isSome = true) → ∃ u, Ended (exec (.laneKeys k (some d)) s) u k.val r 0 (toBytes 4 n) ∧
        (∀ i, i < n → u.itk.keys.find (c.n 8 3 + i) = key i ∧ (u.itk.lanes.get (c.n 8 3 + i) {}).keyv = true ∧
          ∀ root x, v.lkr = some root → key i = some x →
            u.itk.keyTab.find (c.n 8 3 + i) = some ⟨root, toBytes 3 (c.n 8 3 + i), x⟩) ∧
        (∀ l, (l < c.n 8 3 ∨ c.n 8 3 + n ≤ l) → u.itk.keys.find l = s.itk.keys.find l ∧
          u.itk.lanes.get l {} = s.itk.lanes.get l {}) ∧ { u with itk := s.itk } = s) ∧
      ((∃ i, i < n ∧ key i = none) → ∃ u, Ended (exec (.laneKeys k (some d)) s) u k.val r 0x0109 [] ∧
        { u with cave := s.cave } = s)) ∧
    (c.code = 0x0900 → r.mute = false → s.dmaOn c.fn = true → ∀ kid, v.kid = some kid → ∃ (u : State) (rest : List Byte),
      let body := s.attestHead (slice c.bytes 8 32) ++ rest
      Ended (exec (.attest k none) s) (u.emit (.dma c.fn (c.n 40 8) (body ++ slice (Config.ecdsaSign kid body) 0 96)))
        k.val r 0 (toBytes 4 512) ∧
      { u with via := { u.via with vault := v } } = s) ∧
    (c.code = 0x0900 → v.kid = none → ∀ out, Ended (exec (.attest k out) s) s k.val r 0x0106 []) ∧
    (c.code = 0x0901 → r.mute = false → s.dmaOn c.fn = true → ∀ kid, v.kid = some kid →
      let cert := (Config.idCert kid).take 2048
      Ended (exec (.idCert k none) s) (s.emit (.dma c.fn (c.n 8 8) (cert.take (c.bufLen 8)))) k.val r 0
        (toBytes 4 cert.length)) ∧
    ((c.code = 0x0902 → s.dev.aon = false → ∀ d, Ended (exec (.ownerSet k d) s) s k.val r 0x0106 []) ∧
      (c.code = 0x0904 → s.dev.aon = false → Ended (exec (.testopenChal k) s) s k.val r 0x0106 []) ∧
      (c.code = 0x0905 → s.dev.aon = false → ∀ d, Ended (exec (.testopenAuth k d) s) s k.val r 0x0106 []) ∧
      (c.code = 0x0903 → r.started = false → c.n 8 6 ≤ s.effRange.2 → s.dev.aon = false →
        Ended (exec (.jmacRoll k) s) s k.val r 0x0106 [])) ∧
    (c.code = 0x0902 → s.dev.aon = true → ∀ d, let key := slice (c.input 8 d) 0 97
      ((∀ ko, v.ko = some ko → Config.ecdsaVerify ko key (slice (c.input 8 d) 97 96) = true) → ∃ u,
        Ended (exec (.ownerSet k (some d)) s) u k.val r 0 [] ∧ u.via.vault = { v with
          ko := some key, lkr := some (drawn 32), draws := v.draws + 1,
          store := v.kp.elim v.store fun kp =>
            (v.store.put 0 ⟨kp, ascii "KO", key⟩).put 1 ⟨kp, ascii "LKR", drawn 32⟩ } ∧ u.itk.keys = [] ∧
        (∀ l, (u.itk.lanes.get l {}) = { s.itk.lanes.get l {} with keyv := false }) ∧
        { u with via := s.via, itk := s.itk, cave := s.cave } = s) ∧
      (∀ ko, v.ko = some ko → Config.ecdsaVerify ko key (slice (c.input 8 d) 97 96) = false → ∃ u,
        Ended (exec (.ownerSet k (some d)) s) u k.val r 0x0109 [] ∧ { u with cave := s.cave } = s)) ∧
    (c.code = 0x0903 → r.started = false → s.dev.aon = true → ∀ e, c.n 8 6 = e →
      (s.via.jrn.keys.filter fun p => decide (s.trn.turn < p.1)).length < 2 → s.effRange.1 ≤ e → e ≤ s.effRange.2 →
      (∀ p ∈ s.via.jrn.keys, p.1 < e) → ∃ u r', exec (.jmacRoll k) s = .next u ∧
        u.via.jrn.keys = s.via.jrn.keys ++ [(e, drawn 32)] ∧ u.via.jrn.rolls = s.via.jrn.rolls + 1 ∧
        u.engs = s.engs ∧ u.prs = s.prs ∧
        (u.via.runs = s.via.runs.drop k.val ∨ u.via.runs = s.via.runs.put k.val r' ∧ r'.started = true)) ∧
    (c.code = 0x0904 → s.dev.aon = true →
      (v.ko = none → Ended (exec (.testopenChal k) s) s k.val r 0x0106 []) ∧
      (v.ko.isSome = true → Ended (exec (.testopenChal k) s)
        (s.modVault fun v => { v with draws := v.draws + 1, chal := some (drawn 48) }) k.val r 0 (drawn 48))) ∧
    (c.code = 0x0905 → s.dev.aon = true → ∀ d ko, v.ko = some ko →
      let ok := v.chal.elim false fun x => Config.ecdsaVerify ko x (slice (c.input 8 d) 0 96)
      (ok = true → ∃ u, Ended (exec (.testopenAuth k (some d)) s) u k.val r 0 [] ∧
        u.via.vault = { v with permit := true } ∧ { u with via := s.via, cave := s.cave } = s) ∧
      (ok = false → ∃ u, Ended (exec (.testopenAuth k (some d)) s) u k.val r 0x0109 [] ∧ { u with cave := s.cave } = s)) ∧
    exec (.testopenPermissionExpiry true) s = .next (s.modVault fun v => { v with permit := false }) ∧
    exec (.testopenPermissionExpiry false) s = .next (s.modVault fun v => { v with chal := none })

/-- R450, R451, R559 to R563, R573, R574, R602: MODE_SET makes the transitions that R559 lists when their conditions hold,
with the mode entered and the one before as its result, and completes with MODE for one not listed or STATE for one whose
condition fails; RESET of an engine or a vat resets it, and of the device waits for the warm reset; Drain is over when the
last batch admitted before it is released. That a vat's RESET takes two rows, the first leaving the vat in reset and the
second ending the command, is the model's choice (log 36), and so is what becomes of a turn not begun (log 37). -/
def Obligations.ModesAndReset : Prop :=
  ∀ (s : State) (k : Fin 16) (r : Run), s.via.runs.find k.val = some r →
    let c := r.cmd
    let m := s.dev.mode
    (c.code = 0x0002 → r.started = false → ∀ z,
      (m = 2 → c.b 8 = 3 → s.standbyOk = true → ∃ u, Ended (exec (.modeSet k z) s) u k.val r 0 [3, 2] ∧ u.dev.mode = 3 ∧
        u.trn = s.trn ∧ u.prs = s.prs ∧ u.mem = s.mem) ∧
      (m = 3 → c.b 8 = 4 ∨ c.b 8 = 5 ∨ c.b 8 = 8 → s.fullVats = decide (c.b 8 ≠ 8) → s.firstFits = true →
        let u := s.enterRun k.val (c.b 8) s.firstTurn
        u.dev.mode = c.b 8 ∧ bit u.trn.ctl 0 = true ∧ u.trn.turn = s.firstTurn ∧ u.trn.start = s.firstTurn ∧
        u.ticking = s.ticking ∧ (s.via.jrn.ddr = false → u.mem = s.mem) ∧ u.engs = s.engs ∧ u.via.runs = s.via.runs ∧
        (u.recordWaits k.val = false → Ended (exec (.modeSet k z) s) u k.val r 0 [BitVec.ofNat 8 (c.b 8), 3]) ∧
        (u.recordWaits k.val = true → exec (.modeSet k z) s = .next (u.started k.val))) ∧
      (m = 3 → c.b 8 = 4 ∨ c.b 8 = 5 ∨ c.b 8 = 8 → s.fullVats = decide (c.b 8 = 8) ∨ s.firstFits = false →
        Ended (exec (.modeSet k z) s) s k.val r 0x0106 []) ∧
      (m = 2 → c.b 8 = 3 → s.standbyOk = false → Ended (exec (.modeSet k z) s) s k.val r 0x0106 []) ∧
      (m = 3 → c.b 8 = 7 → c.n 10 6 ≤ 2 ^ 48 - 2 ^ 32 → let u := s.enterReplay k.val (c.n 10 6)
        u.dev.mode = 7 ∧ u.trn.turn = c.n 10 6 ∧ u.trn.src = 2 ∧ u.trn.saved = some s.trn.src ∧ u.via.rpl = {} ∧
        u.engs = s.engs ∧ (s.via.jrn.ddr = false → u.mem = s.mem) ∧ u.via.runs = s.via.runs ∧
        (u.recordWaits k.val = false → Ended (exec (.modeSet k z) s) u k.val r 0 [7, 3]) ∧
        (u.recordWaits k.val = true → exec (.modeSet k z) s = .next (u.started k.val))) ∧
      (m = 3 → c.b 8 = 7 → 2 ^ 48 - 2 ^ 32 < c.n 10 6 → Ended (exec (.modeSet k z) s) s k.val r 0x0105 []) ∧
      (c.b 8 = 6 → m = 4 ∨ m = 5 ∨ m = 7 ∨ m = 8 → ∃ u, Ended (exec (.modeSet k z) s) u k.val r 0 [6, BitVec.ofNat 8 m] ∧
        u.dev.mode = 6 ∧ u.dev.drainTo = s.trn.turn ∧ u.trn = s.trn ∧ u.prs = s.prs ∧ u.engs = s.engs) ∧
      (m = 6 → c.b 8 = 3 → exec (.modeSet k z) s = .next (s.started k.val)) ∧
      (c.b 8 = 9 → m = 2 ∨ m = 3 ∨ m = 4 ∨ m = 5 ∨ m = 6 ∨ m = 7 ∨ m = 8 ∨ m = 10 → ∃ u,
        Ended (exec (.modeSet k z) s) u k.val r 0 [9, BitVec.ofNat 8 m] ∧
        u.dev.mode = 9 ∧ u.ticking = false ∧ bit u.trn.ctl 0 = false ∧ ∀ e, (u.eng e).mode ≠ .running) ∧
      (m = 9 → c.b 8 = 10 → ∃ u, Ended (exec (.modeSet k z) s) u k.val r 0 [10, 9] ∧ u.dev.mode = 10 ∧ u.engs = s.engs ∧
        u.mem = s.mem ∧ u.prs = s.prs) ∧
      (m = 3 ∨ m = 10 → c.b 8 = 11 → s.via.vault.permit = true → ∃ u, Ended (exec (.modeSet k true) s) u k.val r 0
        [11, BitVec.ofNat 8 m] ∧ u.dev.mode = 11 ∧ u.dev.scanOn = true ∧
        u.via.vault = { s.via.vault.cleared with off := true } ∧ u.via.jrn.keys = [] ∧ u.itk.keys = [] ∧
        u.itk.keyTab = s.itk.keyTab ∧
        ∀ e, (u.eng e).mem.sram = [] ∧ (u.eng e).mem.scratch = [] ∧ (u.eng e).mem.sbuf = []) ∧
      (m = 3 ∨ m = 10 → c.b 8 = 11 → s.via.vault.permit = false → Ended (exec (.modeSet k z) s) s k.val r 0x0106 []) ∧
      (modeSetListed m (c.b 8) = false → Ended (exec (.modeSet k z) s) s k.val r 0x0104 [])) ∧
    (∀ x y, modeSetListed x y = true ↔ (x, y) ∈ [(2, 3), (3, 4), (3, 5), (3, 7), (3, 8), (4, 6), (5, 6), (7, 6), (8, 6), (6, 3),
      (2, 9), (3, 9), (4, 9), (5, 9), (6, 9), (7, 9), (8, 9), (10, 9), (9, 10), (3, 11), (10, 11)]) ∧
    (m = 6 → (s.ticking = false ∨ ∃ n, s.prs.relBatch = some n ∧ s.dev.drainTo ≤ n) →
      ∃ u, exec .drainComplete s = .next u ∧ u.dev.mode = 3 ∧ u.ticking = false ∧ bit u.trn.ctl 0 = false ∧
        u.prs.batches = [] ∧ u.engs = s.engs ∧ u.mem = s.mem ∧
        (c.code = 0x0002 → r.started = true → r.mute = false → c.source < 64 →
          fld (u.mbox c.fn c.source).stat 2 0 = 3)) ∧
    (c.code = 0x0003 → c.b 8 = 1 → Ended (exec (.reset k) s) (s.modVia fun v => { v with warmWait := true }) k.val r 0 []) ∧
    (c.code = 0x0003 → c.b 8 = 2 → r.started = false → c.b 9 < 64 → ∃ u, exec (.reset k) s = .next u ∧
      (u.vat (c.b 9)).inReset = true ∧ (u.vat (c.b 9)).lmask = (s.vat (c.b 9)).lmask ∧ (u.vat (c.b 9)).tlb = [] ∧
      (u.vat (c.b 9)).stStat = ({} : Vat).stStat ∧ (u.vat (c.b 9)).need = ({} : Vat).need ∧
      (∀ e, vatOf e = c.b 9 → (u.eng e).mem.sbuf = [] ∧ (u.eng e).mem.scratch = [] ∧ (u.eng e).cr = {} ∧
        (u.eng e).mem.icache = [] ∧ (u.eng e).rn.patch = (s.eng e).rn.patch ∧ (u.eng e).rn.pmatch = (s.eng e).rn.pmatch ∧
        (u.eng e).hold = true ∧ (u.eng e).mode ≠ .running) ∧
      (∀ v, v ≠ c.b 9 → { u.vat v with trim := (s.vat v).trim, vfStat := (s.vat v).vfStat } = s.vat v ∧
        (v / 8 ≠ c.b 9 / 8 → u.vat v = s.vat v)) ∧ u.via.runs = s.via.runs.put k.val { r with started := true }) ∧
    (c.code = 0x0003 → c.b 8 = 2 → r.started = true → Ended (exec (.reset k) s)
      (s.modVat (c.b 9) fun x => { x with inReset := false }) k.val r 0 []) ∧
    (c.code = 0x0003 → c.b 8 = 3 →
      let e := 18 * c.b 9 + c.b 10
      (s.eng e).att = none → (s.eng e).mem.sbuf = [] → (s.eng e).mode = .running →
      (∃ u, Ended (exec (.reset k) s) u k.val r 0 [] ∧ OnlyEngine s u e ∧
        (if (s.eng e).hold then u.eng e = { (s.eng e).reset with mode := .held, drain := false }
         else u.eng e = ((s.startEng e).eng e))))

/-- R467, R583 to R595: the engine slices of a vat: where one is due a standby engine is tested at once, and else the next
engine drains first; a slice that passes restores the engine, moves NEXT on and returns it, one that fails maps it out; the
commands of Viari map engines out and back and run a slice; the slices of vat stores and links take a region or a link out,
replace what fails by spares, and put it back. A verdict is the comparison of the MISRs read with the signature of the running
image, and of patch RAM with Viari's copy. That a failing SLICE_NOW does not map the engine out, that what a test reads comes as
operands, and which L1 copies a vat-store slice displaces, are the model's readings and choices (log 35). -/
def Obligations.SelfTests : Prop :=
  (∀ (s : State) (v : VatId) (res : SliceResult),
    let x := s.vat v.val
    let e (k : Nat) : Nat := 18 * v.val + k
    let quiet := ∀ k, k < 18 → (s.eng (e k)).mode ≠ .stopped
    (s.ticking = true → s.trn.tick = 4096 → s.trn.turn % 1024 = 16 * v.val → x.inReset = false → 0 < x.live →
      (x.slot.isSome = true ∨ x.back.isSome = true ∨ x.region.isSome = true → exec (.engineSlice v) s =
        .next (s.modVat v.val fun x => { x with stStat := satFld x.stStat 47 40 1 })) ∧
      (∀ k, x.slot = none → x.back = none → x.region = none → 17 ≤ x.live → x.standby = some k → exec (.engineSlice v) s =
        .next (((s.modVat v.val fun x => { x with
          stStat := setFld x.stStat 58 54 0x1F, slot := some k, offrot := false }).modEng (e k) fun g =>
            { g.reset with mode := .slice, hold := true, drain := false }))) ∧
      (x.slot = none → x.back = none → x.region = none → x.live < 17 → (s.eng (e x.next)).mode = .running →
        (s.eng (e x.next)).drain = false →
        exec (.engineSlice v) s = .next (s.modEng (e x.next) fun g => { g with drain := true, drained := false }))) ∧
    (x.live < 17 → x.slot = none → (s.eng (e x.next)).drain = true → (s.ticking = false ∨ s.trn.tick = 65535) →
      (s.mapRun (e x.next) = none →
        exec (.sliceDrainTimeout v) s = .next ((s.modEng (e x.next) fun g => { g with drain := false }).modVat v.val fun x =>
          { x with stStat := satFld x.stStat 47 40 1 })) ∧
      ((s.mapRun (e x.next)).isSome = true → exec (.sliceDrainTimeout v) s = .next s)) ∧
    (∀ k, k < 18 → x.slot = some k → x.offrot = false → x.live < 17 → s.patchGood (e k) res = true →
      res.misr = Config.signature s.via.fw.image 1 k → quiet →
      ∃ u, exec (.engineSliceComplete v res) s = .next u ∧ (u.vat v.val).slot = none ∧
        (u.vat v.val).next = x.after k ∧ fld (u.vat v.val).stStat 53 49 = k ∧ bit (u.vat v.val).stStat 48 = false ∧
        (u.eng (e k)).mode = (if s.enginesRun then .running else .held) ∧ (u.eng (e k)).mem.sram = s.salvageSram ∧
        (u.eng (e k)).mem.scratch = [] ∧
        (∀ i, i < 512 → (u.eng (e k)).rn.patch.get i 0 = s.via.fw.patch.1.get i 0) ∧ (∀ j, j ≠ e k → u.eng j = s.eng j) ∧
        u.prs = s.prs ∧ u.trn = s.trn) ∧
    (∀ k, k < 18 → x.slot = some k → x.back ≠ some k → s.patchGood (e k) res = true →
      res.misr ≠ Config.signature s.via.fw.image 1 k → quiet →
      ∃ u, exec (.engineSliceComplete v res) s = .next u ∧ (u.vat v.val).slot = none ∧ (u.eng (e k)).mode = .mapped ∧
        (u.vat v.val).lmask.getLsbD k = false ∧ e k ∈ u.dev.mapped ∧ u.mem.keys = s.mem.keys ∧ u.trn = s.trn)) ∧
  (∀ (s : State) (e : EngId),
    let g := s.eng e.val
    let x := s.vat (vatOf e.val)
    g.drain = true → g.att = none → g.wait.isSome = true → g.mode = .running → g.mem.sbuf = [] →
    (∀ p ∈ s.via.runs, p.2.cmd.code ≠ 0x0802) →
    (x.live < 17 → x.slot = none → ∃ u, exec (.engineDrainComplete e) s = .next u ∧
      (u.vat (vatOf e.val)).slot = some (slotOf e.val) ∧ (u.eng e.val).mode = .slice ∧
      (∀ j, j ≠ e.val → u.eng j = s.eng j) ∧ u.prs = s.prs) ∧
    (17 ≤ x.live → x.back = none → x.standby = none → ∃ u, exec (.engineDrainComplete e) s = .next u ∧
      (u.vat (vatOf e.val)).standby = some (slotOf e.val) ∧ (u.eng e.val).mode = .held ∧
      (∀ j, j ≠ e.val → u.eng j = s.eng j) ∧ u.prs = s.prs) ∧
    (17 ≤ x.live → x.standby.isSome = true → exec (.engineDrainComplete e) s =
      .next (s.modEng e.val fun g => { g with drain := false }))) ∧
  (∀ (s : State) (k : Fin 16) (r : Run) (res : SliceResult), s.via.runs.find k.val = some r →
    let c := r.cmd
    let e := 18 * c.b 8 + c.b 9
    (c.code = 0x0802 → (s.vat (c.b 8)).gmask.getLsbD (c.b 9) = false →
      Ended (exec (.engineMap k res) s) s k.val r 0x0106 []) ∧
    (c.code = 0x0802 → (s.vat (c.b 8)).gmask.getLsbD (c.b 9) = true → c.b 10 = 1 →
      ((s.eng e).mode = .mapped → Ended (exec (.engineMap k res) s) s k.val r 0 (toBytes 2 s.live)) ∧
      ((s.eng e).mode = .running → exec (.engineMap k res) s =
        .next ((s.modEng e fun g => { g with drain := true, drained := false }).started k.val)) ∧
      ((s.eng e).mode = .held → c.b 9 < 18 → ∃ u, Ended (exec (.engineMap k res) s) u k.val r 0 (toBytes 2 u.live) ∧
        (u.eng e).mode = .mapped ∧ (u.vat (c.b 8)).lmask.getLsbD (c.b 9) = false ∧ e ∈ u.dev.mapped)) ∧
    (c.code = 0x0802 → (s.vat (c.b 8)).gmask.getLsbD (c.b 9) = true → c.b 10 = 2 → c.b 9 < 18 → (s.eng e).mode = .mapped →
      s.patchGood e res = true →
      (res.misr = Config.signature s.via.fw.image 1 (c.b 9) → ∃ u,
        Ended (exec (.engineMap k res) s) u k.val r 0 (toBytes 2 u.live) ∧
        (u.vat (c.b 8)).lmask.getLsbD (c.b 9) = true ∧ e ∉ u.dev.mapped ∧ (u.eng e).mode ≠ .mapped) ∧
      (res.misr ≠ Config.signature s.via.fw.image 1 (c.b 9) → ∃ u, Ended (exec (.engineMap k res) s) u k.val r 0x0106 [] ∧ u.eng e = s.eng e ∧
        (u.vat (c.b 8)).lmask = (s.vat (c.b 8)).lmask)) ∧
    (c.code = 0x0804 → (s.eng e).inHold = false → Ended (exec (.sliceNow k res) s) s k.val r 0x0106 []) ∧
    (c.code = 0x0804 → (s.eng e).inHold = true → c.b 9 < 18 → s.patchGood e res = true →
      let good := Config.signature s.via.fw.image 1 (c.b 9)
      (res.misr = good → ∃ u, Ended (exec (.sliceNow k res) s) u k.val r 0 [0] ∧
        (u.eng e).mem.sram = s.salvageSram ∧ (u.eng e).mode = (s.eng e).mode) ∧
      (res.misr ≠ good → ∃ u, Ended (exec (.sliceNow k res) s) u k.val r 0 [1] ∧
        (u.eng e).mode = (s.eng e).mode ∧ (u.eng e).cr = (s.eng e).cr))) ∧
  (∀ (s : State) (v : VatId) (line : Nat),
    let x := s.vat v.val
    (s.ticking = true → s.trn.tick = 20480 → s.trn.turn % 1024 = 16 * v.val + 8 → x.inReset = false →
      (x.region = none → x.slot = none → ∃ u, exec (.vatStoreSlice v) s = .next u ∧
        u.vats = (s.modVat v.val fun x => { x with region := some (fld x.stStat 31 26) }).vats ∧
        (∀ e, { u.eng e with mem := { (u.eng e).mem with icache := (s.eng e).mem.icache } } = s.eng e ∧
          (∀ y ∈ (u.eng e).mem.icache, y ∈ (s.eng e).mem.icache) ∧
          ∀ y ∈ (s.eng e).mem.icache, s.lineHome (64 * y.1) ≠ v.val → y ∈ (u.eng e).mem.icache) ∧
        { u with vats := s.vats, engs := s.engs, fresh := s.fresh } = s) ∧
      (x.region.isSome = true ∨ x.slot.isSome = true → exec (.vatStoreSlice v) s =
        .next (s.modVat v.val fun x => { x with stStat := satFld x.stStat 39 32 1 }))) ∧
    (∀ q good bad, 2 ≤ s.dev.mode → s.dev.mode ≤ 8 → x.region = some q → good = Config.signature s.via.fw.image 2 q →
      bad ≠ good → (∀ l, exec (.vatStoreSliceComplete v ⟨good, l⟩) s = .next (s.modVat v.val fun x => { x with
        region := none, stStat := setFld x.stStat 31 26 ((q + 1) % 64), stCount := satFld x.stCount 15 0 1 })) ∧
      (fld x.stStat 25 20 ≠ 0 → ∃ u, exec (.vatStoreSliceComplete v ⟨bad, [line]⟩) s = .next u ∧
        (u.vat v.val).region = none ∧ (u.vat v.val).stCount = x.stCount ∧
        fld (u.vat v.val).stStat 25 20 = fld x.stStat 25 20 - 1 ∧ u.engs = s.engs ∧ u.mem = s.mem))) ∧
  (∀ (s : State) (l : Fin 112) (w : Nat),
    (s.ticking = true → s.linkDue l.val = true → s.dev.linkBusy.contains l.val = false → exec (.linkSlice l) s =
      .next (s.modDev fun d => { d with
        linkBusy := l.val :: d.linkBusy,
        linkCrc := if 16 ≤ (d.linkCrc.get l.val (0, 0)).2 then d.linkCrc.put l.val (s.trn.turn, 0) else d.linkCrc })) ∧
    (∀ good bad, s.dev.linkBusy.contains l.val = true → good = Config.signature s.via.fw.image 3 l.val → bad ≠ good →
      (∀ x y, exec (.linkSliceComplete l ⟨good, x⟩ ⟨good, y⟩) s =
        .next (s.modDev fun d => { d with linkBusy := d.linkBusy.filter fun i => i ≠ l.val })) ∧
      (∀ y, 0 < (s.dev.links.get l.val (8, 8)).1 → ∃ u, exec (.linkSliceComplete l ⟨bad, [w]⟩ ⟨good, y⟩) s = .next u ∧
        u.dev.linkBusy.contains l.val = false ∧
        u.dev.links.get l.val (8, 8) = ((s.dev.links.get l.val (8, 8)).1 - 1, (s.dev.links.get l.val (8, 8)).2) ∧
        u.engs = s.engs ∧ u.mem = s.mem)) ∧
    (s.dev.mode ≠ 0 → ∃ u n, exec (.linkCrcError l) s = .next u ∧ u.dev.linkCrc.find l.val = some (s.trn.turn, n) ∧ 0 < n ∧
      (∀ x, x ≠ (linkVat l.val).1 → u.vat x = s.vat x) ∧ u.engs = s.engs ∧ u.mem = s.mem))

/-- R537, R541 to R553, R614, R617: a retarget that is due sets the power and thermal caps and moves every vat towards its
limit, dropping at once and raising through its supply; a rail that settles lets its vats' raises glide; the droop guard, the
thermal trip and an AVSBus failure lower vats; telemetry corrects the estimate; a link that trains is up with its
coefficients, and background adaptation moves each by one step. The thermal cap on a pinned vat, a raise that the droop guard
cancels, a thermal trip in every mode but Dormant, and AVSOK after a retry read, are the model's readings and choices (log 22);
the slack that a droop report tells is open (log 4). -/
def Obligations.PowerLoops : Prop :=
  ∀ s : State,
    (∀ rs (watts : Nat),
      let st := s.pwr.status
      let est := min 4095 ((watts : Int) + s.pwr.corr).toNat
      let tmax := min 255 (rs.foldl (fun m x => max m x.celsius) 0)
      let capP := nextCapP s.pwr.ctl s.pwr.bound (fld st 43 32) est
      let capT := nextCapT s.pwr.ctl (fld st 31 20) tmax
      (s.retargetDue = false → exec (.vfRetarget rs watts) s = .next s) ∧
      (s.retargetDue = true → ∃ u, exec (.vfRetarget rs watts) s = .next u ∧ fld u.pwr.status 63 52 = est ∧
        fld u.pwr.status 51 44 = tmax ∧ fld u.pwr.status 43 32 = capP % 2 ^ 12 ∧ fld u.pwr.status 31 20 = capT % 2 ^ 12 ∧
        u.engs = s.engs ∧ u.mem = s.mem ∧ u.prs = s.prs ∧ u.trn = { s.trn with rise := false } ∧
        u.dev.turnOut = (s.trn.rise || s.dev.turnOut) ∧ ∀ v, v < 64 →
          let x := s.vat v
          let slack := (rs.getD v ⟨0, 0⟩).margin
          fld (u.vat v).vfStat 31 24 = x.dip.elim slack (min slack) % 256 ∧
          let lim := x.lim v capP capT
          let rail := s.pwr.rails.get (v / 8) {}
          (lim < x.now → (u.vat v).target = some lim ∧ (u.vat v).raise = none) ∧
          (x.now < lim → x.raise = none → bit x.pwrCtl 1 = true → rail.pend = none → rail.bad = false →
            (u.vat v).raise = some (x.now + 25 * min (fld x.pwrCtl 43 40) ((lim - x.now) / 25)) ∧
            (u.vat v).target = x.target))) ∧
    (∀ (row : Fin 8) ms, s.dev.mode ≠ 0 →
      let mv := (s.pwr.rails.get row.val {}).pend.getD (s.pwr.rails.get row.val {}).mv
      ∃ u, exec (.railSettled row ms) s = .next u ∧ (u.pwr.rails.get row.val {}).mv = mv ∧ u.engs = s.engs ∧
        ∀ c f, c < 8 → (s.vat (8 * row.val + c)).raise = some f → (s.vat (8 * row.val + c)).need ≤ mv → 8 ≤ ms.getD c 0 →
          (u.vat (8 * row.val + c)).target = some f ∧ (u.vat (8 * row.val + c)).raise = none) ∧
    (∀ v : VatId, let x := s.vat v.val
      (x.target = none → exec (.glideComplete v) s = .next s) ∧
      (∀ f, x.target = some f → f < 2 ^ 12 → ∃ u, exec (.glideComplete v) s = .next u ∧ (u.vat v.val).freq = f ∧
        (u.vat v.val).target = none ∧ (x.freq ≤ f ∨ bit x.took 1 = false → (u.vat v.val).need = x.need) ∧
        u.engs = s.engs ∧ u.mem = s.mem) ∧
      (s.dev.mode ≠ 0 → ∃ y, exec (.droopGuard v) s = .next (s.draw.modVat v.val fun _ => y) ∧
        fld y.vfStat 31 24 ≤ fld x.vfStat 31 24 ∧ fld y.vfStat 31 24 < 4 ∧ y.dip.isSome = true ∧
        y.freq = max 1200 (x.freq - 25 * fld x.took 39 36) ∧ fld y.vfStat 23 8 = min (fld x.vfStat 23 8 + 1) 65535 ∧
        y.raise = none ∧ y.need = x.need) ∧
      (∀ t, t < 115 → exec (.thermalTrip v t) s = .next s) ∧
      (∀ t, 115 ≤ t → s.dev.mode ≠ 0 → s.dev.bscan = false → ∃ u, exec (.thermalTrip v t) s = .next u ∧ u.dev.mode = 9 ∧
        bit u.pwr.status 3 = true ∧ ∀ w, w < 64 → (u.vat w).freq = 1200 ∧ (u.vat w).target = none)) ∧
    (∀ watts sum : Nat, s.loopsRun = true → s.pwr.raw = some sum → exec (.powerRecalibration watts) s =
      .next (s.modPwr fun p => { p with corr := (watts : Int) - sum })) ∧
    (∀ watts : Nat, s.loopsRun = false ∨ s.pwr.raw = none → exec (.powerRecalibration watts) s = .next s) ∧
    (∀ row : Fin 10,
      (s.dev.mode ≠ 0 → ∃ u, exec (.avsbusFailure row) s = .next u ∧ (u.pwr.rails.get row.val {}).bad = true ∧
        (u.pwr.rails.get row.val {}).pend = none ∧ (u.pwr.rails.get row.val {}).mv = (s.pwr.rails.get row.val {}).mv ∧
        bit u.pwr.status 0 = false ∧ fld u.pwr.status 19 12 = min (fld s.pwr.status 19 12 + 1) 255 ∧
        (8 ≤ row.val → u.vats = s.vats) ∧
        ∀ c, c < 8 → row.val < 8 → let x := s.vat (8 * row.val + c)
          let flo := fld x.tookBound 63 48
          flo < x.freq → (u.vat (8 * row.val + c)).target = some (min flo (x.target.getD flo))) ∧
      exec (.avsbusRetryRead row none) s = .next s ∧
      (∀ mv, (s.pwr.rails.get row.val {}).bad = true → ∃ u, exec (.avsbusRetryRead row (some mv)) s = .next u ∧
        (u.pwr.rails.get row.val {}).mv = mv ∧ (u.pwr.rails.get row.val {}).bad = false ∧ bit u.pwr.status 0 = u.avsGood ∧
        u.engs = s.engs)) ∧
    (∀ os, bit s.pwr.srd 5 = true → 2 ≤ s.dev.mode → s.dev.mode ≤ 8 → ∃ u, exec (.serdesBackgroundAdapt os) s = .next u ∧
      { u with pwr := s.pwr } = s ∧ ∀ r, r < 32 →
        (s.receiverUp r = false → u.pwr.coefs.find r = s.pwr.coefs.find r) ∧
        (s.receiverUp r = true → ∀ i, i < (s.pwr.coefs.get r (List.replicate 6 0)).length → i < (os.getD r []).length →
          (u.pwr.coefs.get r []).getD i 0 =
            towards ((s.pwr.coefs.get r (List.replicate 6 0)).getD i 0) ((os.getD r []).getD i 0))) ∧
    (∀ cs, s.host.perst = true → s.dev.pwrgood = true → s.dev.bscan = false → s.dev.coldWait = none → ∃ p,
      exec (.linkTraining .pcie cs) s =
      .next { s with pwr := p, host := { s.host with linkUp := true, gen4 := s.dev.straps.getLsbD 3 } } ∧
      p = { s.pwr with coefs := p.coefs } ∧ ∀ r, r < 16 → r < cs.length → p.coefs.find r = cs[r]?) ∧
    (∀ (port sub : Fin 4) cs, 2 ≤ s.dev.mode → (s.sub port.val sub.val).set = true →
      (s.itk.speed.find port.val = some 2 ∨ sub.val = 0) → ∃ p, exec (.linkTraining (.eth port sub) cs) s =
        .next { s.modSub port.val sub.val (fun x => { x with up := true }) with pwr := p } ∧
        p = { s.pwr with coefs := p.coefs })

/-- R61, R528, R529, R531, R532, R614: a tracking window opens, closes and is counted; refresh sets TEMPHI; the patrol scrub
counts what it corrects, poisons an uncorrectable line outside the ledger, and puts the device in Safe Hold for one in it; one
symbol of each half-line of HBM3, or one device of DDR5, is corrected, and two are detected, as the model takes more than two to
be (log 40); a DIMM alert is looked for over the sideband bus of its side. -/
def Obligations.MemoryCare : Prop :=
  ∀ (s : State) (mc : Fin 12), s.mcReady mc.val = true →
    let m := s.mc mc.val
    (∀ a b : Nat, eccCorrects true ⟨[a], [b]⟩ = true ∧ eccCorrects false ⟨[a], []⟩ = true ∧
      (a ≠ b → eccCorrects true ⟨[a, b], []⟩ = false ∧ eccCorrects true ⟨[], [a, b]⟩ = false ∧
        eccCorrects false ⟨[a], [b]⟩ = false)) ∧
    (s.trackingMode = true → m.window = true → exec (.trackingWindow mc true) s =
      .next (s.modMc mc.val fun m => { m with window := false, stat := satFld m.stat 47 32 1 })) ∧
    (s.trackingMode = true → s.ticking = true → s.trn.tick = 49152 →
      s.trn.turn % 128 = (if mc.val < 4 then 64 + mc.val else mc.val - 4) →
      exec (.trackingWindow mc false) s = .next (s.modMc mc.val fun m =>
        if m.window then { m with stat := satFld m.stat 63 48 1 } else { m with window := true })) ∧
    (∀ hot, exec (.refresh mc hot) s = .next (s.modMc mc.val fun m => { m with stat := setBit m.stat 7 hot })) ∧
    (∀ line err raced, bit (s.mcScrub mc.val) 0 = true → (isHbm (64 * line) || s.isDdr (64 * line)) = true →
      mcOf (64 * line) = mc.val → s.mem.poison.contains line = false →
      (exec (.scrub mc line {} raced) s = .next s) ∧
      (eccCorrects (isHbm (64 * line)) err = true → err ≠ {} → exec (.scrub mc line err raced) s =
        .next (s.modMc mc.val fun m => { m with stat := setBit m.stat 4 true, ce := satAdd m.ce 1 })) ∧
      (eccCorrects (isHbm (64 * line)) err = false → (inRgn s.via.rgnLdg (64 * line) || s.inClog (64 * line)) = false → ∃ u,
        exec (.scrub mc line err raced) s =
        .next u ∧ u.mem.bytes = s.mem.bytes ∧ u.mem.keys = s.mem.keys ∧ u.dev = s.dev ∧ bit (u.mc mc.val).stat 5 = true ∧
        u.mem.poison.contains line = !raced ∧ fld (u.mc mc.val).uePa 47 6 = line % 2 ^ 42) ∧
      (eccCorrects (isHbm (64 * line)) err = false → inRgn s.via.rgnLdg (64 * line) = true → s.dev.mode ≠ 0 → ∃ u,
        exec (.scrub mc line err raced) s =
        .next u ∧ u.dev.mode = 9 ∧ (s.dev.mode ≠ 9 → u.ticking = false))) ∧
    (∀ (side : Fin 2) (ch : Fin 4), mc.val = 4 + 4 * side.val + ch.val → exec (.ddrAlert side ch) s =
      .next (s.emit (.ddrSideband side.val (4 * side.val + ch.val))))

/-- R559, R565 to R568, R577 to R581, R607, R611, R628 to R630: PWRGOOD low loses everything outside the VDD_AON domain and a
rise begins a cold boot; RESET_N low and a commanded warm reset reset the engines, the Press and Viari and keep memory, key
bytes and lane tables; a boot watchdog marks its bank as failed; Prime that succeeds ends in Control-Only with every
controller ready, and one that fails in Safe Hold; a warm boot restores memory and, with its record, the ledger's last batch; and
what the VDD_AON domain itself does. That a warm reset writes its record only where Viari runs, and that a warm boot without one
keeps memory and recovers nothing, are the model's readings (log 25), and so are that a warm reset carried out as a cold one counts
as cold and that nothing records the entry to Dormant (log 38). -/
def Obligations.ResetAndBoot : Prop :=
  ∀ s : State,
    (∀ ns taken, s.dev.aon = false → s.dev.pwrgood = true → 200 ≤ ns →
      exec (.pwrgoodFall ns taken) s = .next (s.modDev fun d => { d with pgLow := true })) ∧
    (∀ ns taken, s.dev.aon = true → s.dev.pwrgood = true →
      (ns < 50 → exec (.pwrgoodFall ns taken) s = .next s) ∧
      (200 ≤ ns ∨ 50 ≤ ns ∧ taken = true → ∃ u, exec (.pwrgoodFall ns taken) s = .next u ∧ u.dev.mode = 0 ∧
        u.dev.pwrgood = false ∧ u.engs = [] ∧ u.mem = {} ∧ u.prs = {} ∧ u.trn = {} ∧ u.itk = {} ∧ u.host.fns = [] ∧
        u.cave = s.cave ∧ u.via.vault = s.via.vault.cleared ∧
        ∀ v, v < 64 → (u.vat v).lmask = (u.vat v).gmask ∧ (u.vat v).gmask = (s.vat v).gmask)) ∧
    (∀ p, s.dev.aon = true → s.dev.pwrgood = false →
      (s.dev.resetN = true → ∃ u, exec (.pwrgoodRise p) s = .next u ∧ u.dev.mode = 1 ∧ u.dev.pwrgood = true ∧
        u.dev.straps = p.straps ∧ u.dev.puf = p.puf ∧ u.cave.cold = s.cave.cold + 1 ∧ u.via.vault.off = false ∧
        u.mem = s.mem ∧ u.engs = s.engs ∧ (p.straps.getLsbD 4 = false → u.via.vault.kid = p.puf ∧
          ∀ q x, p.puf = some q → p.koBad = false →
            s.via.vault.store.find 0 = some ⟨Config.pufRoot q, ascii "KO", x⟩ → u.via.vault.ko = some x)) ∧
      (s.dev.resetN = false → ∃ u, exec (.pwrgoodRise p) s = .next u ∧ u.dev = { s.dev with pwrgood := true, coldWait := some p } ∧
        u.mem = s.mem ∧ u.engs = s.engs ∧ u.cave = s.cave)) ∧
    (∀ p, s.dev.aon = false → exec (.pwrgoodRise p) s = .next (s.modDev fun d => { d with pgLow := false })) ∧
    (let warm (u : State) : Prop := u.dev.mode = 1 ∧ u.mem.keys = s.mem.keys ∧ u.itk.lanes = s.itk.lanes ∧
      u.itk.keys = s.itk.keys ∧ u.via.queue = [] ∧ u.via.runs = [] ∧ u.prs.txs = [] ∧ u.prs.batches = [] ∧
      u.ticking = false ∧ (∀ e, (u.eng e).cr = {} ∧ (u.eng e).t = List.replicate 32 0 ∧ (u.eng e).mem = {}) ∧
      u.dev.tap = s.dev.tap ∧ u.dev.boundary = s.dev.boundary ∧
      (2 ≤ s.dev.mode → s.romOnly = false → u.dev.record.isSome = true)
    (∀ ns taken r, ns < 1000 → exec (.resetNLow ns taken r) s = .next s) ∧
    (∀ ns taken, 10000 ≤ ns → s.warmOpen = true → s.dev.mode ≠ 11 → ∃ u, exec (.resetNLow ns taken ⟨true⟩) s = .next u ∧
      warm u ∧ u.dev.warmHeld = true ∧ u.dev.resetN = false) ∧
    (s.via.warmWait = true → s.warmOpen = true → s.dev.mode ≠ 11 → s.dev.resetN = true → ∃ u,
      exec (.commandedWarmReset ⟨true⟩) s = .next u ∧ warm u ∧ (s.dev.aon = true → u.cave.warm = s.cave.warm + 1)) ∧
    (∀ r, s.via.warmWait = false → exec (.commandedWarmReset r) s = .next s) ∧
    (∀ b, b < 2 → s.via.fw.running = some b → s.dev.mode = 1 → s.warmOpen = true → ∃ u,
      exec (.bootWatchdogExpiry ⟨true⟩) s = .next u ∧ warm u ∧ u.via.fw.failed.getLsbD b = true ∧
        u.via.fw.running ≠ some b)) ∧
    (s.dev.coldWait = none →
      (s.dev.warmHeld = false → exec .resetNRise s = .next (s.modDev fun d => { d with resetN := true })) ∧
      (s.dev.warmHeld = true → s.dev.bootKind = 2 → ∃ u, exec .resetNRise s = .next u ∧ u.dev.warmHeld = false ∧
        u.dev.resetN = true ∧ u.dev.mode = s.dev.mode ∧ (s.dev.aon = true → u.cave.warm = s.cave.warm + 1) ∧
        u.mem = s.mem)) ∧
    (∀ p, s.dev.coldWait = some p → ∃ u, exec .resetNRise s = .next u ∧ u.dev.mode = 1 ∧ u.dev.coldWait = none ∧
      (s.dev.aon = true → u.cave.cold = s.cave.cold + 1)) ∧
    (∀ p : PrimeResult, s.dev.mode = 1 → s.dev.bscan = false → s.dev.warmHeld = false → s.dev.coldWait = none →
      (s.via.fw.hostLoad = true → s.hbmKept = false → p.hbmFail = [] → ∃ u, exec (.primeComplete p) s = .next u ∧
        u.dev.mode = 2 ∧ ∀ i, i < 4 → u.mcReady i = true) ∧
      (s.hbmKept = false → p.hbmFail ≠ [] → s.via.vault.kid.isSome = true → s.dev.record = none → ∃ u,
        exec (.primeComplete p) s = .next u ∧ u.dev.mode = 9 ∧ ∀ i ∈ p.hbmFail, bit (u.mc i.val).stat 3 = true) ∧
      (s.via.fw.hostLoad = false → s.via.vault.kid = none → ∃ u, exec (.primeComplete p) s = .next u ∧ u.dev.mode = 9) ∧
      (s.via.fw.hostLoad = false → s.via.vault.kid.isSome = true → p.links = [] → p.stores = [] → p.slots = [] →
        imagePatchOk s.via.fw.urom s.via.fw.image = true →
        (∀ v, v < 64 → (s.vat v).inReset = false ∧ (s.vat v).held = []) →
        let loaded (u : State) (l : List Nat) : Prop := u.dev.mode = 2 ∧ u.via.fw.started = true ∧
          bit u.pwr.status 0 = s.avsGood ∧ ∀ v k, v < 64 → k < 18 → (s.vat v).gmask.getLsbD k = true →
            let g := s.eng (18 * v + k)
            (g.inHold = true → 18 * v + k ∉ l → (u.eng (18 * v + k)).mem.sram = s.salvageSram) ∧
            ((∀ i, i < 512 → g.rn.patch.get i 0 = 0) →
              ∀ i, i < 512 → (u.eng (18 * v + k)).rn.patch.get i 0 = s.via.fw.patch.1.get i 0)
        (s.dev.record = none → s.hbmKept = false → p.hbmFail = [] → populationOk p = true → ∃ u,
          exec (.primeComplete p) s = .next u ∧ loaded u s.dev.mapped ∧ u.mem.bytes = [] ∧ u.mem.keys = [] ∧
          ∀ i, i < 12 → u.mcReady i = true) ∧
        (s.dev.record = none → s.hbmKept = true → ∃ u, exec (.primeComplete p) s = .next u ∧ loaded u s.dev.mapped ∧
          u.mem.bytes = s.mem.bytes ∧ u.mem.keys = s.mem.keys ∧ ∀ i, i < 12 → (s.mc i).info ≠ 0 → u.mcReady i = true) ∧
        ∀ r, s.dev.record = some r → ∃ u, exec (.primeComplete p) s = .next u ∧ loaded u r.mapped ∧
          let d := s.lastMarked.getD r.rel
          u.trn.turn = d + 1 ∧ u.prs.relBatch = some d ∧ u.prs.clog = [] ∧ u.via.sets = r.set.toList ∧
          u.dev.record = none ∧ u.mem.keys = s.mem.keys)) ∧
    (exec .vddAonLow s = .next ((s.modDev fun d => { d with aon := false, sbUp := false, pgLow := false }).modVault fun v =>
      { store := v.store, off := v.off, draws := v.draws })) ∧
    (s.dev.pgLow = false → exec .vddAonUp s = .next ((s.modDev fun d => { d with aon := true, sbUp := true }).modCave fun c =>
      { c with ringPtr := 0, areaPrev := false, areaPtr := 0 })) ∧
    (s.dev.pgLow = true → ∃ u, exec .vddAonUp s = .next u ∧ u.dev.mode = 0 ∧ u.dev.pwrgood = false ∧ u.dev.aon = true ∧
      u.dev.pgLow = false ∧ u.engs = [] ∧ u.mem = {} ∧ u.cave.ringPtr = 0 ∧ u.cave.ring = s.cave.ring) ∧
    (s.dev.aon = false → exec .caveSuppressed s = .next s) ∧
    (s.dev.aon = true → s.cave.lost = [] →
      exec .caveSuppressed s = .next (s.modCave fun c => { c with per := [], lost := [] })) ∧
    (∀ type n, s.cave.lost = [(type, n)] → s.dev.aon = true → ∃ u, exec .caveSuppressed s = .next u ∧
      { u with cave := s.cave } = s ∧ u.cave.rseq = s.cave.rseq + 1 ∧ u.cave.lost = [] ∧ u.cave.per = [] ∧
      u.cave.ring.find (s.cave.rseq % 16384) = some (s.record 0x80FF 0xFF 0xFF (toBytes 2 type ++ toBytes 4 n)))

/-- R604, R605, R611, R612, R618, R623, R625: each SMBus read answers its bytes, with their count and the PEC, and moves its
pointer, a wrong PEC is not acknowledged, and a port that is off answers nothing; while VDD_AON is low the pointers stay; each
JTAG instruction is selected and shifts its register, and operates only where it may. The polynomial of the PEC, the bytes it
covers, and pointers that both ports share are presumed or the model's choice (log 39); what a scan captures is open (log 8). -/
def Obligations.BoardPorts : Prop :=
  ∀ (s : State) (port : SmbPort) (w : BitVec 16),
    let ptr (f : Cave → Cave) : State := if s.dev.aon then s.modCave f else s
    let pec (code : Byte) (l : List Byte) : Byte :=
      ((match port with | .sb => [0xB4, code, 0xB5] | .mg => [0xB6, code, 0xB7]) ++ l).foldl crc8 0
    let read (code : Byte) (l : List Byte) : Out := .smbus port (l ++ [pec code l])
    let block (code : Byte) (l : List Byte) : Out := read code (BitVec.ofNat 8 l.length :: l)
    (∀ row ∈ ([
        ((fun p => Instr.smbusRingPointer port p w), ptr fun c => { c with ringPtr := w.toNat % 16384 * 64 }),
        ((fun p => Instr.smbusAreaPointer port p w),
          ptr fun c => { c with areaPrev := w.getLsbD 15, areaPtr := w.toNat % 128 }),
        ((fun p => Instr.smbusRingRead port p), (ptr fun c => { c with ringPtr := (c.ringPtr + 32) % 2 ^ 20 }).emit
          (block 0x10 (slice (slice (s.cave.ring.get (s.cave.ringPtr / 64 % 16384) []) 0 64) (s.cave.ringPtr % 64) 32))),
        ((fun p => Instr.smbusAreaRead port p), (ptr fun c => { c with areaPtr := (c.areaPtr + 1) % 128 }).emit
          (block 0x11 (readBytes (if s.cave.areaPrev then s.cave.prev else s.cave.cur) (32 * s.cave.areaPtr) 32))),
        ((fun p => Instr.smbusModeRead port p), s.emit
          (read 0x20 [BitVec.ofNat 8 (s.dev.mode + if s.dev.mode = 0 then 128 else 0)])),
        ((fun p => Instr.smbusPowerStatus port p), match port with
          | .sb => s.emit (.nack .sb)
          | .mg => s.emit (block 0x30 (toBytes 8 s.pwrStatus.toNat)))] : List ((Bool → Instr) × State)),
      (s.smbusUp port = true → exec (row.1 true) s = .next row.2 ∧ exec (row.1 false) s = .next (s.emit (.nack port))) ∧
      (s.smbusUp port = false → ∀ p, exec (row.1 p) s = .next s)) ∧
    (s.smbusUp port = true → s.cave.rseq ≠ 0 → exec (.smbusStatusRead port true) s = .next (s.emit (block 0x01
      (toBytes 2 (s.cave.rseq % 16384) ++ toBytes 6 (s.cave.rseq - 1) ++ toBytes 4 s.cave.cold ++
        toBytes 4 s.cave.warm)))) ∧
    (s.smbusUp port = true → s.cave.rseq = 0 → ∃ last, exec (.smbusStatusRead port true) s = .next (s.draw.emit (block 0x01
      (toBytes 2 0 ++ toBytes 6 last ++ toBytes 4 s.cave.cold ++ toBytes 4 s.cave.warm)))) ∧
    exec (.smbusTimeout port) s = .next s ∧
    (s.dev.mode ≠ 0 →
      let sel (code : Nat) : State := (s.modDev fun d => { d with tap := code }).emit (.tdo 0x01)
      let passed (code n d : Nat) : State := ((sel code).modDev fun x => { x with tapReg := d / 2 ^ (n - 1) % 2 }).emit
        (.tdo (2 * d % 2 ^ n))
      exec .tapReset s = .next (s.modDev fun d => { d with tap := 0x02 }) ∧ exec .idcode s = .next ((sel 0x02).emit (.tdo 0x0093056B)) ∧
      (∀ d : Bool, exec (.bypass d) s = .next (passed 0xFF 1 d.toNat)) ∧
      (∀ pins cells, exec (.samplePreload pins cells) s = .next (((sel 0x01).modDev fun d =>
        { d with boundary := cells }).emit (.tdo pins.toNat))) ∧
      (s.bscanOpen = true → (∀ cells, ∃ x, exec (.extest cells) s = .next (((((sel 0x00).modDev fun d =>
            { d with boundary := cells }).draw.emit (.tdo x)).emit (.pins cells))) ∧ x < 2 ^ 1356) ∧
        (∀ d : Bool, ∃ u, exec (.clamp d) s = .next u ∧ u.out = .tdo (2 * d.toNat % 2) :: .pins s.dev.boundary :: .tdo 0x01 :: s.out ∧
          u.dev = (passed 0x03 1 d.toNat).dev) ∧
        (∀ d : Bool, ∃ u, exec (.highz d) s = .next u ∧ u.out = .tdo (2 * d.toNat % 2) :: .hiz :: .tdo 0x01 :: s.out ∧
          u.dev = (passed 0x04 1 d.toNat).dev)) ∧
      (s.bscanOpen = false → (∀ cells, exec (.extest cells) s = .next (passed 0x00 1356 cells.toNat)) ∧
        (∀ d : Bool, exec (.clamp d) s = .next (passed 0x03 1 d.toNat)) ∧
        (∀ d : Bool, exec (.highz d) s = .next (passed 0x04 1 d.toNat))) ∧
      (∀ en d64 d1024 d128, s.scanOpen en = false → exec (.scanCfg en d64) s = .next (passed 0x40 64 d64.toNat) ∧
        exec (.scanShift en d1024) s = .next (passed 0x41 1024 d1024.toNat) ∧
        exec (.mbistAcc en d128) s = .next (passed 0x42 128 d128.toNat) ∧
        exec (.caveRd en w) s = .next (passed 0x43 272 w.toNat)) ∧
      (∀ d64 d1024 d128, s.scanOpen true = true →
        let takes (code n d : Nat) (x : Answer) : Prop := ∃ y, y < 2 ^ n ∧
          x = .next ((((sel code).draw.modDev fun x => { x with tapReg := d })).emit (.tdo y))
        takes 0x40 64 d64.toNat (exec (.scanCfg true d64) s) ∧ takes 0x41 1024 d1024.toNat (exec (.scanShift true d1024) s) ∧
        takes 0x42 128 d128.toNat (exec (.mbistAcc true d128) s)) ∧
      (s.scanOpen true = true → w.toNat < 2 ^ 15 + 256 → exec (.caveRd true w) s = .next (((sel 0x43).modDev fun x =>
        { x with tapReg := w.toNat }).emit (.tdo (ofBytes (if w.getLsbD 15
          then readBytes (if 128 ≤ w.toNat % 2 ^ 15 then s.cave.prev else s.cave.cur) (32 * (w.toNat % 128)) 32
          else slice (slice (s.cave.ring.get (w.toNat / 2 % 16384) []) 0 64) (32 * (w.toNat % 2)) 32))))))

/-- Each step takes the command at the front of the queue and carries it out on the state with the queue's rest; with no
command waiting the state does not change (the model's choice, log 1: the table has no row for time alone). -/
def Obligations.StepRunsFront : Prop :=
  (∀ (s : State) (c : Instr) (rest : List Instr),
    step { s with pending := c :: rest } = exec c { s with pending := rest }) ∧
  ∀ s : State, s.pending = [] → step s = .next s

/-- R138, R140, R141, R142, R152, R153, R156, R510, R558: what reset leaves, and that the invariants hold there: tally,
guard and palette registers, engine status word, string registers, flags, interrupt registers, ENG_CTL and ENG_STAT,
empty TLBs, Dormant, RUN 0, no command waiting. That memory reads 0 and that nothing is in flight are the model's
(log 3, log 9). -/
def Obligations.ResetState : Prop :=
  let s := State.reset
  (∀ e i, i < 32 → (s.eng e).t[i]? = some 0) ∧ (∀ e i, i < 16 → (s.eng e).p.getLsbD i = decide (i = 0)) ∧
  (∀ e i, i < 8 → (s.eng e).b[i]? = some 0) ∧
  (∀ e, let c := (s.eng e).cr
    c.esw.priv = true ∧ c.esw.dxe = 7 ∧ c.esw.cb = 0 ∧ c.esw.sb = 0 ∧ c.esw.drnd = 0 ∧ c.esw.dfrnd = 0 ∧ c.esw.key = 0 ∧
    c.esw.tx = 0 ∧ c.esw.ie = false ∧ c.esw.pr = false ∧ c.esw.salv = false ∧ c.tsbr = 0 ∧ c.xvec = 0 ∧ c.ptroot = 0 ∧
    c.ssrc = 0 ∧ c.sdst = 0 ∧ c.scnt = 0 ∧ c.saux = 0 ∧ c.aflag = 0 ∧ c.tkctl = 0 ∧ c.vs = false ∧ c.intm = 0) ∧
  (∀ e, (s.eng e).hold = true ∧ (s.eng e).mode = .held ∧ (s.eng e).mem.itlb = [] ∧ (s.eng e).mem.dtlb = [] ∧
    (s.eng e).att = none) ∧
  s.dev.mode = 0 ∧ s.ticking = false ∧ s.pending = [] ∧ s.via.runs = [] ∧ (∀ a, s.rd a = 0) ∧
  s.memWf ∧ s.localWf ∧ s.pressWf ∧ s.modeWf ∧ s.guardWf

/-- The forms that the model keeps: every step leaves physical memory, the key store, scratch stores and local SRAM
canonical, the Press's released and staged bytes in rising order, and guard 0 of every engine reading 1 (R140). -/
def Obligations.StepKeepsForms : Prop :=
  ∀ s t : State, s.memWf → s.localWf → s.pressWf → s.guardWf → step s = .next t →
    t.memWf ∧ t.localWf ∧ t.pressWf ∧ t.guardWf

/-- R558, R559, R563: in one step the device stays in its mode or goes to one that the table of R559 gives for it; it is
always in one of the twelve modes. -/
def Obligations.ModeTransitions : Prop :=
  ∀ s t : State, s.modeWf → step s = .next t →
    (t.dev.mode = s.dev.mode ∨ t.dev.mode ∈ nextModes s.dev.mode) ∧ t.modeWf

/-- Every command answers: it has a next state, with the commands that wait behind it unchanged, or its operands do not
spell its row (log 12); no command faults, and none is without a meaning. -/
def Obligations.CommandsAnswer : Prop :=
  ∀ (i : Instr) (s : State),
    (∃ t, exec i s = .next t ∧ t.pending = s.pending) ∨ exec i s = .refused .notThisCommand

/-- The model's own refusal (log 12): a row of Viari whose slot runs nothing or a command of another CODE (R448), a write
of RING_CTL or EVQ_CTL whose EN is the other row's (R429, R434), a TLBI_CMD write with another OP (R329), a group access
beside the window of 64 KiB (R506), a frame of another KIND (R480), an opcode that is listed, as an illegal one, and a
bundle or a repeated instruction that is not the one the engine fetches (R342). -/
def Obligations.ForeignOperands : Prop :=
  ∀ s : State,
    (∀ (k : Fin 16) (di : DmaIn) (o : DmaOut) (x : Bool) (v : Env) (w : W64) (z : SliceResult), ∀ row ∈ ([
      (Instr.devInfo k, 0x0001), (.modeSet k x, 0x0002), (.reset k, 0x0003), (.cmdStatus k, 0x0004),
      (.policyWrite k, 0x0005), (.policyRead k, 0x0006), (.fwStage k di x, 0x0100), (.fwVerify ⟨k, x⟩, 0x0101),
      (.fwSelect k x, 0x0102), (.fwInfo k, 0x0103), (.cfgOpen k, 0x0300), (.cfgLoad k di, 0x0301), (.cfgRoot k, 0x0302),
      (.cfgActivate k, 0x0303), (.cfgAbandon k, 0x0304), (.cfgQuery k, 0x0305), (.regionSet k, 0x0400),
      (.ledgerMap k di, 0x0401), (.ledgerLoad k di, 0x0402), (.ledgerRead k o v, 0x0403), (.wheelHome k di, 0x0404),
      (.recipePolicy k, 0x0405), (.keySet k, 0x0406), (.turnConfig k, 0x0500), (.turnStep k, 0x0501),
      (.turnStatus k, 0x0502), (.laneWrite k di, 0x0600), (.laneRead k ⟨o, v⟩, 0x0601), (.laneKeys k di, 0x0602),
      (.portConfig k, 0x0603), (.jrnConfig k, 0x0700), (.jrnAck k, 0x0701), (.jrnRead k ⟨o, v⟩, 0x0702),
      (.rplSupply k di, 0x0703), (.rplStatus k, 0x0704), (.caveRead k o, 0x0800), (.caveFirst k o, 0x0801),
      (.engineMap k z, 0x0802), (.sramRead k o, 0x0803), (.sliceNow k z, 0x0804), (.attest k o, 0x0900),
      (.idCert k o, 0x0901), (.ownerSet k di, 0x0902), (.jmacRoll k, 0x0903), (.testopenChal k, 0x0904),
      (.testopenAuth k di, 0x0905), (.vcsRead k, 0x0A00), (.vcsWrite k, 0x0A01), (.tlbInval k w, 0x0A02)] :
      List (Instr × Nat)),
      (∀ r, s.via.runs.find k.val = some r → r.cmd.code ≠ row.2) → exec row.1 s = .refused .notThisCommand) ∧
    (∀ fn n w, w.getLsbD 0 = false → exec (.ringEnable fn n w) s = .refused .notThisCommand ∧
      exec (.evqEnable fn w) s = .refused .notThisCommand) ∧
    (∀ fn n w, w.getLsbD 0 = true → exec (.ringDisable fn n w) s = .refused .notThisCommand) ∧
    (∀ (vat : VatId) (who : Who) (w : W64), ∀ row ∈ ([
      (Instr.tlbiVa vat who w, 1), (.tlbiRoot vat who w, 2), (.tlbiFrame vat who w, 3), (.tlbiAll vat who w, 4)] :
      List (Instr × Nat)),
      w.toNat % 8 ≠ row.2 → exec row.1 s = .refused .notThisCommand) ∧
    (∀ who win off w, 0x10000 ≤ off → exec (.vcsGroupWrite who win off w) s = .refused .notThisCommand ∧
      exec (.vcsGroupRead who win off) s = .refused .notThisCommand) ∧
    (∀ port sub f, ∀ row ∈ ([(Instr.post port sub f, 1), (.peek port sub f, 2), (.hello port sub f, 3)] :
      List (Instr × Nat)), numAt f.payload 1 1 ≠ row.2 → exec row.1 s = .refused .notThisCommand) ∧
    (∀ e op v, (curdLen op.toNat).isSome = true → exec (.illegalOpcode e op v) s = .refused .notThisCommand) ∧
    (∀ (e : EngId) (b : Bundle) (v : Env) (s1 : State) (p : List Byte), let g := s.eng e.val
      g.ready = true → g.cr.esw.priv = true → v.parity = none → g.amc = none →
      (s.corrected (ceLines v)).fetch e.val (ueLines v) 16 = (s1, .ok p) →
      ofBytes p ≠ b.toNat → exec (.bundleMove e b v) s = .refused .notThisCommand) ∧
    ∀ (e : EngId) (op : Byte) (m : BitVec 16) (v : Env) (s1 : State) (p : List Byte), let g := s.eng e.val
      g.ready = true → g.cr.esw.priv = false → v.parity = none → g.amc = none → g.imp = none →
      (s.corrected (ceLines v)).fetchAt e.val (ueLines v) g.pc.toNat 2 = (s1, .ok p) → p ≠ [0xF0, op] → exec (.rep e op m v) s = .refused .notThisCommand
end

