-- ==== Sys2Proof/Laws/State.lean ====
section
/-! SUPPORT. One lemma for each field of State and each update of it, and the laws of entries by number. -/

namespace Sys2Proof.Machine

/-- An entry put in is found. -/
@[simp] theorem AMap.find_put_self {α : Type} (m : AMap α) (k : Nat) (a : α) : (m.put k a).find k = some a := by
  induction m with
  | nil => simp [AMap.put, AMap.find]
  | cons h r ih =>
    obtain ⟨i, b⟩ := h
    unfold AMap.put
    by_cases h1 : k < i
    · simp [h1, AMap.find]
    · by_cases h2 : i = k
      · simp [h2, AMap.find]
      · simp [h1, h2, AMap.find, ih]

/-- An entry put in leaves every other. -/
theorem AMap.find_put_ne {α : Type} (m : AMap α) {k j : Nat} (a : α) (h : j ≠ k) :
    (m.put k a).find j = m.find j := by
  induction m with
  | nil =>
    have h' : ¬ k = j := fun x => h x.symm
    simp [AMap.put, AMap.find, h']
  | cons hd r ih =>
    obtain ⟨i, b⟩ := hd
    have h' : ¬ k = j := fun x => h x.symm
    unfold AMap.put
    by_cases h1 : k < i
    · simp only [h1, if_true, AMap.find, h', if_false]
      by_cases h3 : j < k
      · have h4 : ¬ i = j := by omega
        have h5 : j < i := by omega
        simp [h3, h4, h5]
      · simp [h3]
    · by_cases h2 : i = k
      · subst h2
        simp [AMap.find, h']
      · simp only [h1, h2, if_false, AMap.find, ih]

/-- An entry put in is what reading it gives. -/
@[simp] theorem AMap.get_put_self {α : Type} (m : AMap α) (k : Nat) (a d : α) : (m.put k a).get k d = a := by
  simp [AMap.get]

/-- Reading another entry gives what it was. -/
theorem AMap.get_put_ne {α : Type} (m : AMap α) {k j : Nat} (a d : α) (h : j ≠ k) :
    (m.put k a).get j d = m.get j d := by
  simp [AMap.get, AMap.find_put_ne m a h]

/-- An entry put in twice is the one put in last. -/
theorem AMap.put_put {α : Type} (m : AMap α) (k : Nat) (a b : α) : (m.put k a).put k b = m.put k b := by
  induction m with
  | nil => simp [AMap.put]
  | cons h r ih =>
    obtain ⟨i, c⟩ := h
    unfold AMap.put
    by_cases h1 : k < i
    · simp [h1, AMap.put]
    · by_cases h2 : i = k
      · simp [h2, AMap.put]
      · simp [h1, h2, AMap.put, ih]

/-- The engine that was changed. -/
@[simp] theorem State.eng_modEng_self (s : State) (e : Nat) (f : Eng → Eng) : (s.modEng e f).eng e = f (s.eng e) := by
  simp [State.modEng, State.setEng, State.eng]

/-- Every other engine stays. -/
theorem State.eng_modEng_ne (s : State) {e j : Nat} (f : Eng → Eng) (h : j ≠ e) : (s.modEng e f).eng j = s.eng j := by
  simp [State.modEng, State.setEng, State.eng, AMap.get_put_ne _ _ _ h]

/-- Two changes of an engine are one. -/
theorem State.modEng_modEng (s : State) (e : Nat) (f g : Eng → Eng) :
    (s.modEng e f).modEng e g = s.modEng e fun x => g (f x) := by
  simp [State.modEng, State.setEng, State.eng, AMap.put_put]

/-- A free value drawn leaves every engine. -/
@[simp] theorem State.eng_draw (s : State) (e : Nat) : s.draw.eng e = s.eng e := rfl

/-- The vat that was changed. -/
@[simp] theorem State.vat_modVat_self (s : State) (v : Nat) (f : Vat → Vat) : (s.modVat v f).vat v = f (s.vat v) := by
  simp [State.modVat, State.vat]

/-- Every other vat stays. -/
theorem State.vat_modVat_ne (s : State) {v j : Nat} (f : Vat → Vat) (h : j ≠ v) : (s.modVat v f).vat j = s.vat j := by
  simp [State.modVat, State.vat, AMap.get_put_ne _ _ _ h]

/-- The function that was changed. -/
@[simp] theorem State.fn_modFn_self (s : State) (n : Nat) (g : Fn → Fn) : (s.modFn n g).fn n = g (s.fn n) := by
  simp [State.modFn, State.fn]

/-- Every other function stays. -/
theorem State.fn_modFn_ne (s : State) {n j : Nat} (g : Fn → Fn) (h : j ≠ n) : (s.modFn n g).fn j = s.fn j := by
  simp [State.modFn, State.fn, AMap.get_put_ne _ _ _ h]

variable (s : State)

@[simp] theorem State.setEng_vats (e : Nat) (x : Eng) : (s.setEng e x).vats = s.vats := rfl
@[simp] theorem State.setEng_trn (e : Nat) (x : Eng) : (s.setEng e x).trn = s.trn := rfl
@[simp] theorem State.setEng_prs (e : Nat) (x : Eng) : (s.setEng e x).prs = s.prs := rfl
@[simp] theorem State.setEng_itk (e : Nat) (x : Eng) : (s.setEng e x).itk = s.itk := rfl
@[simp] theorem State.setEng_host (e : Nat) (x : Eng) : (s.setEng e x).host = s.host := rfl
@[simp] theorem State.setEng_via (e : Nat) (x : Eng) : (s.setEng e x).via = s.via := rfl
@[simp] theorem State.setEng_mem (e : Nat) (x : Eng) : (s.setEng e x).mem = s.mem := rfl
@[simp] theorem State.setEng_vcs (e : Nat) (x : Eng) : (s.setEng e x).vcs = s.vcs := rfl
@[simp] theorem State.setEng_pwr (e : Nat) (x : Eng) : (s.setEng e x).pwr = s.pwr := rfl
@[simp] theorem State.setEng_cave (e : Nat) (x : Eng) : (s.setEng e x).cave = s.cave := rfl
@[simp] theorem State.setEng_dev (e : Nat) (x : Eng) : (s.setEng e x).dev = s.dev := rfl
@[simp] theorem State.setEng_out (e : Nat) (x : Eng) : (s.setEng e x).out = s.out := rfl
@[simp] theorem State.setEng_fresh (e : Nat) (x : Eng) : (s.setEng e x).fresh = s.fresh := rfl
@[simp] theorem State.setEng_pending (e : Nat) (x : Eng) : (s.setEng e x).pending = s.pending := rfl

@[simp] theorem State.modEng_vats (e : Nat) (f : Eng → Eng) : (s.modEng e f).vats = s.vats := rfl
@[simp] theorem State.modEng_trn (e : Nat) (f : Eng → Eng) : (s.modEng e f).trn = s.trn := rfl
@[simp] theorem State.modEng_prs (e : Nat) (f : Eng → Eng) : (s.modEng e f).prs = s.prs := rfl
@[simp] theorem State.modEng_itk (e : Nat) (f : Eng → Eng) : (s.modEng e f).itk = s.itk := rfl
@[simp] theorem State.modEng_host (e : Nat) (f : Eng → Eng) : (s.modEng e f).host = s.host := rfl
@[simp] theorem State.modEng_via (e : Nat) (f : Eng → Eng) : (s.modEng e f).via = s.via := rfl
@[simp] theorem State.modEng_mem (e : Nat) (f : Eng → Eng) : (s.modEng e f).mem = s.mem := rfl
@[simp] theorem State.modEng_vcs (e : Nat) (f : Eng → Eng) : (s.modEng e f).vcs = s.vcs := rfl
@[simp] theorem State.modEng_pwr (e : Nat) (f : Eng → Eng) : (s.modEng e f).pwr = s.pwr := rfl
@[simp] theorem State.modEng_cave (e : Nat) (f : Eng → Eng) : (s.modEng e f).cave = s.cave := rfl
@[simp] theorem State.modEng_dev (e : Nat) (f : Eng → Eng) : (s.modEng e f).dev = s.dev := rfl
@[simp] theorem State.modEng_out (e : Nat) (f : Eng → Eng) : (s.modEng e f).out = s.out := rfl
@[simp] theorem State.modEng_fresh (e : Nat) (f : Eng → Eng) : (s.modEng e f).fresh = s.fresh := rfl
@[simp] theorem State.modEng_pending (e : Nat) (f : Eng → Eng) : (s.modEng e f).pending = s.pending := rfl

@[simp] theorem State.modVat_engs (v : Nat) (f : Vat → Vat) : (s.modVat v f).engs = s.engs := rfl
@[simp] theorem State.modVat_trn (v : Nat) (f : Vat → Vat) : (s.modVat v f).trn = s.trn := rfl
@[simp] theorem State.modVat_prs (v : Nat) (f : Vat → Vat) : (s.modVat v f).prs = s.prs := rfl
@[simp] theorem State.modVat_itk (v : Nat) (f : Vat → Vat) : (s.modVat v f).itk = s.itk := rfl
@[simp] theorem State.modVat_host (v : Nat) (f : Vat → Vat) : (s.modVat v f).host = s.host := rfl
@[simp] theorem State.modVat_via (v : Nat) (f : Vat → Vat) : (s.modVat v f).via = s.via := rfl
@[simp] theorem State.modVat_mem (v : Nat) (f : Vat → Vat) : (s.modVat v f).mem = s.mem := rfl
@[simp] theorem State.modVat_vcs (v : Nat) (f : Vat → Vat) : (s.modVat v f).vcs = s.vcs := rfl
@[simp] theorem State.modVat_pwr (v : Nat) (f : Vat → Vat) : (s.modVat v f).pwr = s.pwr := rfl
@[simp] theorem State.modVat_cave (v : Nat) (f : Vat → Vat) : (s.modVat v f).cave = s.cave := rfl
@[simp] theorem State.modVat_dev (v : Nat) (f : Vat → Vat) : (s.modVat v f).dev = s.dev := rfl
@[simp] theorem State.modVat_out (v : Nat) (f : Vat → Vat) : (s.modVat v f).out = s.out := rfl
@[simp] theorem State.modVat_fresh (v : Nat) (f : Vat → Vat) : (s.modVat v f).fresh = s.fresh := rfl
@[simp] theorem State.modVat_pending (v : Nat) (f : Vat → Vat) : (s.modVat v f).pending = s.pending := rfl

@[simp] theorem State.modTrn_engs (f : Turner → Turner) : (s.modTrn f).engs = s.engs := rfl
@[simp] theorem State.modTrn_vats (f : Turner → Turner) : (s.modTrn f).vats = s.vats := rfl
@[simp] theorem State.modTrn_trn (f : Turner → Turner) : (s.modTrn f).trn = f s.trn := rfl
@[simp] theorem State.modTrn_prs (f : Turner → Turner) : (s.modTrn f).prs = s.prs := rfl
@[simp] theorem State.modTrn_itk (f : Turner → Turner) : (s.modTrn f).itk = s.itk := rfl
@[simp] theorem State.modTrn_host (f : Turner → Turner) : (s.modTrn f).host = s.host := rfl
@[simp] theorem State.modTrn_via (f : Turner → Turner) : (s.modTrn f).via = s.via := rfl
@[simp] theorem State.modTrn_mem (f : Turner → Turner) : (s.modTrn f).mem = s.mem := rfl
@[simp] theorem State.modTrn_vcs (f : Turner → Turner) : (s.modTrn f).vcs = s.vcs := rfl
@[simp] theorem State.modTrn_pwr (f : Turner → Turner) : (s.modTrn f).pwr = s.pwr := rfl
@[simp] theorem State.modTrn_cave (f : Turner → Turner) : (s.modTrn f).cave = s.cave := rfl
@[simp] theorem State.modTrn_dev (f : Turner → Turner) : (s.modTrn f).dev = s.dev := rfl
@[simp] theorem State.modTrn_out (f : Turner → Turner) : (s.modTrn f).out = s.out := rfl
@[simp] theorem State.modTrn_fresh (f : Turner → Turner) : (s.modTrn f).fresh = s.fresh := rfl
@[simp] theorem State.modTrn_pending (f : Turner → Turner) : (s.modTrn f).pending = s.pending := rfl

@[simp] theorem State.modPrs_engs (f : Press → Press) : (s.modPrs f).engs = s.engs := rfl
@[simp] theorem State.modPrs_vats (f : Press → Press) : (s.modPrs f).vats = s.vats := rfl
@[simp] theorem State.modPrs_trn (f : Press → Press) : (s.modPrs f).trn = s.trn := rfl
@[simp] theorem State.modPrs_prs (f : Press → Press) : (s.modPrs f).prs = f s.prs := rfl
@[simp] theorem State.modPrs_itk (f : Press → Press) : (s.modPrs f).itk = s.itk := rfl
@[simp] theorem State.modPrs_host (f : Press → Press) : (s.modPrs f).host = s.host := rfl
@[simp] theorem State.modPrs_via (f : Press → Press) : (s.modPrs f).via = s.via := rfl
@[simp] theorem State.modPrs_mem (f : Press → Press) : (s.modPrs f).mem = s.mem := rfl
@[simp] theorem State.modPrs_vcs (f : Press → Press) : (s.modPrs f).vcs = s.vcs := rfl
@[simp] theorem State.modPrs_pwr (f : Press → Press) : (s.modPrs f).pwr = s.pwr := rfl
@[simp] theorem State.modPrs_cave (f : Press → Press) : (s.modPrs f).cave = s.cave := rfl
@[simp] theorem State.modPrs_dev (f : Press → Press) : (s.modPrs f).dev = s.dev := rfl
@[simp] theorem State.modPrs_out (f : Press → Press) : (s.modPrs f).out = s.out := rfl
@[simp] theorem State.modPrs_fresh (f : Press → Press) : (s.modPrs f).fresh = s.fresh := rfl
@[simp] theorem State.modPrs_pending (f : Press → Press) : (s.modPrs f).pending = s.pending := rfl

@[simp] theorem State.modItk_engs (f : Intake → Intake) : (s.modItk f).engs = s.engs := rfl
@[simp] theorem State.modItk_vats (f : Intake → Intake) : (s.modItk f).vats = s.vats := rfl
@[simp] theorem State.modItk_trn (f : Intake → Intake) : (s.modItk f).trn = s.trn := rfl
@[simp] theorem State.modItk_prs (f : Intake → Intake) : (s.modItk f).prs = s.prs := rfl
@[simp] theorem State.modItk_itk (f : Intake → Intake) : (s.modItk f).itk = f s.itk := rfl
@[simp] theorem State.modItk_host (f : Intake → Intake) : (s.modItk f).host = s.host := rfl
@[simp] theorem State.modItk_via (f : Intake → Intake) : (s.modItk f).via = s.via := rfl
@[simp] theorem State.modItk_mem (f : Intake → Intake) : (s.modItk f).mem = s.mem := rfl
@[simp] theorem State.modItk_vcs (f : Intake → Intake) : (s.modItk f).vcs = s.vcs := rfl
@[simp] theorem State.modItk_pwr (f : Intake → Intake) : (s.modItk f).pwr = s.pwr := rfl
@[simp] theorem State.modItk_cave (f : Intake → Intake) : (s.modItk f).cave = s.cave := rfl
@[simp] theorem State.modItk_dev (f : Intake → Intake) : (s.modItk f).dev = s.dev := rfl
@[simp] theorem State.modItk_out (f : Intake → Intake) : (s.modItk f).out = s.out := rfl
@[simp] theorem State.modItk_fresh (f : Intake → Intake) : (s.modItk f).fresh = s.fresh := rfl
@[simp] theorem State.modItk_pending (f : Intake → Intake) : (s.modItk f).pending = s.pending := rfl

@[simp] theorem State.modVia_engs (f : Viari → Viari) : (s.modVia f).engs = s.engs := rfl
@[simp] theorem State.modVia_vats (f : Viari → Viari) : (s.modVia f).vats = s.vats := rfl
@[simp] theorem State.modVia_trn (f : Viari → Viari) : (s.modVia f).trn = s.trn := rfl
@[simp] theorem State.modVia_prs (f : Viari → Viari) : (s.modVia f).prs = s.prs := rfl
@[simp] theorem State.modVia_itk (f : Viari → Viari) : (s.modVia f).itk = s.itk := rfl
@[simp] theorem State.modVia_host (f : Viari → Viari) : (s.modVia f).host = s.host := rfl
@[simp] theorem State.modVia_via (f : Viari → Viari) : (s.modVia f).via = f s.via := rfl
@[simp] theorem State.modVia_mem (f : Viari → Viari) : (s.modVia f).mem = s.mem := rfl
@[simp] theorem State.modVia_vcs (f : Viari → Viari) : (s.modVia f).vcs = s.vcs := rfl
@[simp] theorem State.modVia_pwr (f : Viari → Viari) : (s.modVia f).pwr = s.pwr := rfl
@[simp] theorem State.modVia_cave (f : Viari → Viari) : (s.modVia f).cave = s.cave := rfl
@[simp] theorem State.modVia_dev (f : Viari → Viari) : (s.modVia f).dev = s.dev := rfl
@[simp] theorem State.modVia_out (f : Viari → Viari) : (s.modVia f).out = s.out := rfl
@[simp] theorem State.modVia_fresh (f : Viari → Viari) : (s.modVia f).fresh = s.fresh := rfl
@[simp] theorem State.modVia_pending (f : Viari → Viari) : (s.modVia f).pending = s.pending := rfl

@[simp] theorem State.modMem_engs (f : Mem → Mem) : (s.modMem f).engs = s.engs := rfl
@[simp] theorem State.modMem_vats (f : Mem → Mem) : (s.modMem f).vats = s.vats := rfl
@[simp] theorem State.modMem_trn (f : Mem → Mem) : (s.modMem f).trn = s.trn := rfl
@[simp] theorem State.modMem_prs (f : Mem → Mem) : (s.modMem f).prs = s.prs := rfl
@[simp] theorem State.modMem_itk (f : Mem → Mem) : (s.modMem f).itk = s.itk := rfl
@[simp] theorem State.modMem_host (f : Mem → Mem) : (s.modMem f).host = s.host := rfl
@[simp] theorem State.modMem_via (f : Mem → Mem) : (s.modMem f).via = s.via := rfl
@[simp] theorem State.modMem_mem (f : Mem → Mem) : (s.modMem f).mem = f s.mem := rfl
@[simp] theorem State.modMem_vcs (f : Mem → Mem) : (s.modMem f).vcs = s.vcs := rfl
@[simp] theorem State.modMem_pwr (f : Mem → Mem) : (s.modMem f).pwr = s.pwr := rfl
@[simp] theorem State.modMem_cave (f : Mem → Mem) : (s.modMem f).cave = s.cave := rfl
@[simp] theorem State.modMem_dev (f : Mem → Mem) : (s.modMem f).dev = s.dev := rfl
@[simp] theorem State.modMem_out (f : Mem → Mem) : (s.modMem f).out = s.out := rfl
@[simp] theorem State.modMem_fresh (f : Mem → Mem) : (s.modMem f).fresh = s.fresh := rfl
@[simp] theorem State.modMem_pending (f : Mem → Mem) : (s.modMem f).pending = s.pending := rfl

@[simp] theorem State.modDev_engs (f : Device → Device) : (s.modDev f).engs = s.engs := rfl
@[simp] theorem State.modDev_vats (f : Device → Device) : (s.modDev f).vats = s.vats := rfl
@[simp] theorem State.modDev_trn (f : Device → Device) : (s.modDev f).trn = s.trn := rfl
@[simp] theorem State.modDev_prs (f : Device → Device) : (s.modDev f).prs = s.prs := rfl
@[simp] theorem State.modDev_itk (f : Device → Device) : (s.modDev f).itk = s.itk := rfl
@[simp] theorem State.modDev_host (f : Device → Device) : (s.modDev f).host = s.host := rfl
@[simp] theorem State.modDev_via (f : Device → Device) : (s.modDev f).via = s.via := rfl
@[simp] theorem State.modDev_mem (f : Device → Device) : (s.modDev f).mem = s.mem := rfl
@[simp] theorem State.modDev_vcs (f : Device → Device) : (s.modDev f).vcs = s.vcs := rfl
@[simp] theorem State.modDev_pwr (f : Device → Device) : (s.modDev f).pwr = s.pwr := rfl
@[simp] theorem State.modDev_cave (f : Device → Device) : (s.modDev f).cave = s.cave := rfl
@[simp] theorem State.modDev_dev (f : Device → Device) : (s.modDev f).dev = f s.dev := rfl
@[simp] theorem State.modDev_out (f : Device → Device) : (s.modDev f).out = s.out := rfl
@[simp] theorem State.modDev_fresh (f : Device → Device) : (s.modDev f).fresh = s.fresh := rfl
@[simp] theorem State.modDev_pending (f : Device → Device) : (s.modDev f).pending = s.pending := rfl

@[simp] theorem State.modPwr_engs (f : Power → Power) : (s.modPwr f).engs = s.engs := rfl
@[simp] theorem State.modPwr_vats (f : Power → Power) : (s.modPwr f).vats = s.vats := rfl
@[simp] theorem State.modPwr_trn (f : Power → Power) : (s.modPwr f).trn = s.trn := rfl
@[simp] theorem State.modPwr_prs (f : Power → Power) : (s.modPwr f).prs = s.prs := rfl
@[simp] theorem State.modPwr_itk (f : Power → Power) : (s.modPwr f).itk = s.itk := rfl
@[simp] theorem State.modPwr_host (f : Power → Power) : (s.modPwr f).host = s.host := rfl
@[simp] theorem State.modPwr_via (f : Power → Power) : (s.modPwr f).via = s.via := rfl
@[simp] theorem State.modPwr_mem (f : Power → Power) : (s.modPwr f).mem = s.mem := rfl
@[simp] theorem State.modPwr_vcs (f : Power → Power) : (s.modPwr f).vcs = s.vcs := rfl
@[simp] theorem State.modPwr_pwr (f : Power → Power) : (s.modPwr f).pwr = f s.pwr := rfl
@[simp] theorem State.modPwr_cave (f : Power → Power) : (s.modPwr f).cave = s.cave := rfl
@[simp] theorem State.modPwr_dev (f : Power → Power) : (s.modPwr f).dev = s.dev := rfl
@[simp] theorem State.modPwr_out (f : Power → Power) : (s.modPwr f).out = s.out := rfl
@[simp] theorem State.modPwr_fresh (f : Power → Power) : (s.modPwr f).fresh = s.fresh := rfl
@[simp] theorem State.modPwr_pending (f : Power → Power) : (s.modPwr f).pending = s.pending := rfl

@[simp] theorem State.modCave_engs (f : Cave → Cave) : (s.modCave f).engs = s.engs := rfl
@[simp] theorem State.modCave_vats (f : Cave → Cave) : (s.modCave f).vats = s.vats := rfl
@[simp] theorem State.modCave_trn (f : Cave → Cave) : (s.modCave f).trn = s.trn := rfl
@[simp] theorem State.modCave_prs (f : Cave → Cave) : (s.modCave f).prs = s.prs := rfl
@[simp] theorem State.modCave_itk (f : Cave → Cave) : (s.modCave f).itk = s.itk := rfl
@[simp] theorem State.modCave_host (f : Cave → Cave) : (s.modCave f).host = s.host := rfl
@[simp] theorem State.modCave_via (f : Cave → Cave) : (s.modCave f).via = s.via := rfl
@[simp] theorem State.modCave_mem (f : Cave → Cave) : (s.modCave f).mem = s.mem := rfl
@[simp] theorem State.modCave_vcs (f : Cave → Cave) : (s.modCave f).vcs = s.vcs := rfl
@[simp] theorem State.modCave_pwr (f : Cave → Cave) : (s.modCave f).pwr = s.pwr := rfl
@[simp] theorem State.modCave_cave (f : Cave → Cave) : (s.modCave f).cave = f s.cave := rfl
@[simp] theorem State.modCave_dev (f : Cave → Cave) : (s.modCave f).dev = s.dev := rfl
@[simp] theorem State.modCave_out (f : Cave → Cave) : (s.modCave f).out = s.out := rfl
@[simp] theorem State.modCave_fresh (f : Cave → Cave) : (s.modCave f).fresh = s.fresh := rfl
@[simp] theorem State.modCave_pending (f : Cave → Cave) : (s.modCave f).pending = s.pending := rfl

@[simp] theorem State.modFn_engs (n : Nat) (g : Fn → Fn) : (s.modFn n g).engs = s.engs := rfl
@[simp] theorem State.modFn_vats (n : Nat) (g : Fn → Fn) : (s.modFn n g).vats = s.vats := rfl
@[simp] theorem State.modFn_trn (n : Nat) (g : Fn → Fn) : (s.modFn n g).trn = s.trn := rfl
@[simp] theorem State.modFn_prs (n : Nat) (g : Fn → Fn) : (s.modFn n g).prs = s.prs := rfl
@[simp] theorem State.modFn_itk (n : Nat) (g : Fn → Fn) : (s.modFn n g).itk = s.itk := rfl
@[simp] theorem State.modFn_via (n : Nat) (g : Fn → Fn) : (s.modFn n g).via = s.via := rfl
@[simp] theorem State.modFn_mem (n : Nat) (g : Fn → Fn) : (s.modFn n g).mem = s.mem := rfl
@[simp] theorem State.modFn_vcs (n : Nat) (g : Fn → Fn) : (s.modFn n g).vcs = s.vcs := rfl
@[simp] theorem State.modFn_pwr (n : Nat) (g : Fn → Fn) : (s.modFn n g).pwr = s.pwr := rfl
@[simp] theorem State.modFn_cave (n : Nat) (g : Fn → Fn) : (s.modFn n g).cave = s.cave := rfl
@[simp] theorem State.modFn_dev (n : Nat) (g : Fn → Fn) : (s.modFn n g).dev = s.dev := rfl
@[simp] theorem State.modFn_out (n : Nat) (g : Fn → Fn) : (s.modFn n g).out = s.out := rfl
@[simp] theorem State.modFn_fresh (n : Nat) (g : Fn → Fn) : (s.modFn n g).fresh = s.fresh := rfl
@[simp] theorem State.modFn_pending (n : Nat) (g : Fn → Fn) : (s.modFn n g).pending = s.pending := rfl

@[simp] theorem State.emit_engs (o : Out) : (s.emit o).engs = s.engs := rfl
@[simp] theorem State.emit_vats (o : Out) : (s.emit o).vats = s.vats := rfl
@[simp] theorem State.emit_trn (o : Out) : (s.emit o).trn = s.trn := rfl
@[simp] theorem State.emit_prs (o : Out) : (s.emit o).prs = s.prs := rfl
@[simp] theorem State.emit_itk (o : Out) : (s.emit o).itk = s.itk := rfl
@[simp] theorem State.emit_host (o : Out) : (s.emit o).host = s.host := rfl
@[simp] theorem State.emit_via (o : Out) : (s.emit o).via = s.via := rfl
@[simp] theorem State.emit_mem (o : Out) : (s.emit o).mem = s.mem := rfl
@[simp] theorem State.emit_vcs (o : Out) : (s.emit o).vcs = s.vcs := rfl
@[simp] theorem State.emit_pwr (o : Out) : (s.emit o).pwr = s.pwr := rfl
@[simp] theorem State.emit_cave (o : Out) : (s.emit o).cave = s.cave := rfl
@[simp] theorem State.emit_dev (o : Out) : (s.emit o).dev = s.dev := rfl
@[simp] theorem State.emit_out (o : Out) : (s.emit o).out = o :: s.out := rfl
@[simp] theorem State.emit_fresh (o : Out) : (s.emit o).fresh = s.fresh := rfl
@[simp] theorem State.emit_pending (o : Out) : (s.emit o).pending = s.pending := rfl

@[simp] theorem State.draw_engs : (s.draw).engs = s.engs := rfl
@[simp] theorem State.draw_vats : (s.draw).vats = s.vats := rfl
@[simp] theorem State.draw_trn : (s.draw).trn = s.trn := rfl
@[simp] theorem State.draw_prs : (s.draw).prs = s.prs := rfl
@[simp] theorem State.draw_itk : (s.draw).itk = s.itk := rfl
@[simp] theorem State.draw_host : (s.draw).host = s.host := rfl
@[simp] theorem State.draw_via : (s.draw).via = s.via := rfl
@[simp] theorem State.draw_mem : (s.draw).mem = s.mem := rfl
@[simp] theorem State.draw_vcs : (s.draw).vcs = s.vcs := rfl
@[simp] theorem State.draw_pwr : (s.draw).pwr = s.pwr := rfl
@[simp] theorem State.draw_cave : (s.draw).cave = s.cave := rfl
@[simp] theorem State.draw_dev : (s.draw).dev = s.dev := rfl
@[simp] theorem State.draw_out : (s.draw).out = s.out := rfl
@[simp] theorem State.draw_fresh : (s.draw).fresh = s.fresh + 1 := rfl
@[simp] theorem State.draw_pending : (s.draw).pending = s.pending := rfl

@[simp] theorem State.setEng_vat (e : Nat) (x : Eng) (k : Nat) : (s.setEng e x).vat k = s.vat k := rfl
@[simp] theorem State.setEng_fn (e : Nat) (x : Eng) (k : Nat) : (s.setEng e x).fn k = s.fn k := rfl
@[simp] theorem State.modEng_vat (e : Nat) (f : Eng → Eng) (k : Nat) : (s.modEng e f).vat k = s.vat k := rfl
@[simp] theorem State.modEng_fn (e : Nat) (f : Eng → Eng) (k : Nat) : (s.modEng e f).fn k = s.fn k := rfl
@[simp] theorem State.modVat_eng (v : Nat) (f : Vat → Vat) (k : Nat) : (s.modVat v f).eng k = s.eng k := rfl
@[simp] theorem State.modVat_fn (v : Nat) (f : Vat → Vat) (k : Nat) : (s.modVat v f).fn k = s.fn k := rfl
@[simp] theorem State.modTrn_eng (f : Turner → Turner) (k : Nat) : (s.modTrn f).eng k = s.eng k := rfl
@[simp] theorem State.modTrn_vat (f : Turner → Turner) (k : Nat) : (s.modTrn f).vat k = s.vat k := rfl
@[simp] theorem State.modTrn_fn (f : Turner → Turner) (k : Nat) : (s.modTrn f).fn k = s.fn k := rfl
@[simp] theorem State.modPrs_eng (f : Press → Press) (k : Nat) : (s.modPrs f).eng k = s.eng k := rfl
@[simp] theorem State.modPrs_vat (f : Press → Press) (k : Nat) : (s.modPrs f).vat k = s.vat k := rfl
@[simp] theorem State.modPrs_fn (f : Press → Press) (k : Nat) : (s.modPrs f).fn k = s.fn k := rfl
@[simp] theorem State.modItk_eng (f : Intake → Intake) (k : Nat) : (s.modItk f).eng k = s.eng k := rfl
@[simp] theorem State.modItk_vat (f : Intake → Intake) (k : Nat) : (s.modItk f).vat k = s.vat k := rfl
@[simp] theorem State.modItk_fn (f : Intake → Intake) (k : Nat) : (s.modItk f).fn k = s.fn k := rfl
@[simp] theorem State.modVia_eng (f : Viari → Viari) (k : Nat) : (s.modVia f).eng k = s.eng k := rfl
@[simp] theorem State.modVia_vat (f : Viari → Viari) (k : Nat) : (s.modVia f).vat k = s.vat k := rfl
@[simp] theorem State.modVia_fn (f : Viari → Viari) (k : Nat) : (s.modVia f).fn k = s.fn k := rfl
@[simp] theorem State.modMem_eng (f : Mem → Mem) (k : Nat) : (s.modMem f).eng k = s.eng k := rfl
@[simp] theorem State.modMem_vat (f : Mem → Mem) (k : Nat) : (s.modMem f).vat k = s.vat k := rfl
@[simp] theorem State.modMem_fn (f : Mem → Mem) (k : Nat) : (s.modMem f).fn k = s.fn k := rfl
@[simp] theorem State.modDev_eng (f : Device → Device) (k : Nat) : (s.modDev f).eng k = s.eng k := rfl
@[simp] theorem State.modDev_vat (f : Device → Device) (k : Nat) : (s.modDev f).vat k = s.vat k := rfl
@[simp] theorem State.modDev_fn (f : Device → Device) (k : Nat) : (s.modDev f).fn k = s.fn k := rfl
@[simp] theorem State.modPwr_eng (f : Power → Power) (k : Nat) : (s.modPwr f).eng k = s.eng k := rfl
@[simp] theorem State.modPwr_vat (f : Power → Power) (k : Nat) : (s.modPwr f).vat k = s.vat k := rfl
@[simp] theorem State.modPwr_fn (f : Power → Power) (k : Nat) : (s.modPwr f).fn k = s.fn k := rfl
@[simp] theorem State.modCave_eng (f : Cave → Cave) (k : Nat) : (s.modCave f).eng k = s.eng k := rfl
@[simp] theorem State.modCave_vat (f : Cave → Cave) (k : Nat) : (s.modCave f).vat k = s.vat k := rfl
@[simp] theorem State.modCave_fn (f : Cave → Cave) (k : Nat) : (s.modCave f).fn k = s.fn k := rfl
@[simp] theorem State.modFn_eng (n : Nat) (g : Fn → Fn) (k : Nat) : (s.modFn n g).eng k = s.eng k := rfl
@[simp] theorem State.modFn_vat (n : Nat) (g : Fn → Fn) (k : Nat) : (s.modFn n g).vat k = s.vat k := rfl
@[simp] theorem State.emit_eng (o : Out) (k : Nat) : (s.emit o).eng k = s.eng k := rfl
@[simp] theorem State.emit_vat (o : Out) (k : Nat) : (s.emit o).vat k = s.vat k := rfl
@[simp] theorem State.emit_fn (o : Out) (k : Nat) : (s.emit o).fn k = s.fn k := rfl
@[simp] theorem State.draw_eng (k : Nat) : (s.draw).eng k = s.eng k := rfl
@[simp] theorem State.draw_vat (k : Nat) : (s.draw).vat k = s.vat k := rfl
@[simp] theorem State.draw_fn (k : Nat) : (s.draw).fn k = s.fn k := rfl

end Sys2Proof.Machine
end

