-- ==== Sys2Proof/Laws/Rind.lean ====
section
/-! SUPPORT. What a bundle does: its issue, its plain moves, and its retirement around one trigger. -/

namespace Sys2Proof.Machine

/-- A bundle that issues runs. -/
theorem issue_of_issues {s s1 : State} {e : Nat} {b : Bundle} {v : Env} (h : Issues s e b v s1) :
    s.issue e b v = s1.runBundle e b v := by
  obtain ⟨h1, h2, h3, h4, h5, ⟨p, h6, h7⟩, h8, h9⟩ := h
  unfold State.issue
  simp only [h1, h2, h3.1, Bool.not_true, Bool.or_false, Bool.false_eq_true, if_false]
  have h10 (g : Eng) (h : (s.eng e).cr.esw.bp = true ∨ g.amc = none) :
      (∀ va, g.amc = some va → (s.eng e).cr.esw.bp = false → False) := by
    intro va h11 h12; simp [h11, h12] at h
  split
  · next va h11 h12 => exact (h10 _ (h4.imp_right And.left) va h11 h12).elim
  · simp only [h6, h7, ne_eq, not_true_eq_false, if_false]
    split
    · next va h11 h12 => exact (h10 _ (h4.imp_right And.right) va h11 h12).elim
    · cases hr : (s.eng e).reportPoint b
      · simp [h8, h9]
      · simp [(h5 hr).1, (h5 hr).2, h8, h9]

/-- A row of triggers whose port is among a bundle's moves issues. -/
theorem row_of_mem {s s1 : State} {e : EngId} {b : Bundle} {v : Env} {m : Mv} {ports : Nat → Bool}
    (hm : m ∈ s1.moves e.val b) (hp : ports m.dst = true) : s.row ports e b v = s.issue e.val b v := by
  unfold State.row
  rw [if_pos]
  rw [List.any_eq_true]
  unfold State.moves at hm
  simp only [List.mem_filterMap] at hm
  obtain ⟨⟨i, x⟩, hx, h⟩ := hm
  refine ⟨(i, x), hx, ?_⟩
  have hd : m.dst = x.dst := by
    dsimp only at h
    repeat' split at h
    all_goals first | (simp only [reduceCtorEq] at h) | (simp only [Option.some.injEq] at h; rw [← h])
  rw [← hd]; exact hp

/-- The check of a plain move passes and does nothing. -/
theorem prepMove_plain {s : State} {e : Nat} {v : Env} {po : Ports} {b : Bundle} {m : Mv} (h : m.plain b = true) :
    s.prepMove e v po (slotsOf b) m = (s, .ok {}) := by
  simp only [Mv.plain, Bool.and_eq_true, Bool.not_eq_true'] at h
  simp [State.prepMove, h.1.1, h.1.2, h.2]

/-- The checks of plain moves pass and do nothing. -/
theorem prepMoves_plain {s : State} {e : Nat} {v : Env} {po : Ports} {b : Bundle} {l : List Mv}
    (h : l.all (·.plain b) = true) : State.prepMoves e v po (slotsOf b) l s = (s, .ok (l.map fun _ => {})) := by
  induction l with
  | nil => rfl
  | cons m l ih =>
    simp only [List.all_cons, Bool.and_eq_true] at h
    simp [State.prepMoves, prepMove_plain h.1, ih h.2]

/-- The checks of moves one after the other. -/
theorem prepMoves_append {s : State} {e : Nat} {v : Env} {po : Ports} {b : Bundle} {l l' : List Mv}
    (h : l.all (·.plain b) = true) : State.prepMoves e v po (slotsOf b) (l ++ l') s =
      match State.prepMoves e v po (slotsOf b) l' s with
      | (s', .error x) => (s', .error x)
      | (s', .ok as) => (s', .ok (l.map (fun _ => {}) ++ as)) := by
  induction l with
  | nil =>
    simp only [List.nil_append, List.map_nil]
    split <;> simp_all
  | cons m l ih =>
    simp only [List.all_cons, Bool.and_eq_true] at h
    simp only [List.cons_append, State.prepMoves, prepMove_plain h.1, ih h.2, List.map_cons]
    generalize State.prepMoves e v po (slotsOf b) l' s = q
    obtain ⟨s', _ | as⟩ := q <;> rfl

/-- The checks of a bundle with one trigger are those of its trigger. -/
theorem prepMoves_one {s s2 : State} {e : Nat} {v : Env} {po : Ports} {b : Bundle} {m : Mv} {pre post : List Mv} {a : Act}
    (h : (pre ++ post).all (·.plain b) = true) (hm : s.prepMove e v po (slotsOf b) m = (s2, .ok a)) :
    State.prepMoves e v po (slotsOf b) (pre ++ m :: post) s =
      (s2, .ok (pre.map (fun _ => ({} : Act)) ++ a :: post.map fun _ => {})) := by
  simp only [List.all_append, Bool.and_eq_true] at h
  rw [prepMoves_append h.1]
  simp only [State.prepMoves, hm, prepMoves_plain h.2]

/-- The checks of a bundle are those of its moves, its loop body's among them (R206). -/
theorem prepAll_one {s s2 : State} {e : Nat} {v : Env} {po : Ports} {b : Bundle} {m : Mv} {pre post : List Mv} {a : Act}
    (h : (pre ++ post).all (·.plain b) = true) (ht : isTrig m.dst = true) (hp : m.pairBad (slotsOf b) = false)
    (hs : isStr m.dst = false) (hm : s.prepMove e v po (slotsOf b) m = (s2, .ok a)) :
    s.prepAll e v po (slotsOf b) (pre ++ m :: post) =
      (s2, .ok (pre.map (fun _ => ({} : Act)) ++ a :: post.map fun _ => {})) := by
  have hc : isCr m.dst = false := by
    simp only [isTrig, trigTable, List.any_cons, List.any_nil, Bool.or_false, Bool.or_eq_true, Bool.and_eq_true,
      decide_eq_true_eq] at ht
    simp only [isCr, Bool.and_eq_false_iff, decide_eq_false_iff_not]
    omega
  unfold State.prepAll
  split
  · exact prepMoves_one h hm
  · next x hx =>
    have hd := List.find?_some hx
    have hx := List.mem_of_find?_eq_some hx
    simp only [Bool.and_eq_true, decide_eq_true_eq] at hd
    have : x = m := by
      simp only [List.mem_append, List.mem_cons] at hx
      have key : x ∈ pre ++ post → x = m := by
        intro hx
        have hp := List.all_eq_true.mp h x hx
        simp [Mv.plain, hd.1] at hp
      rcases hx with hx | hx | hx
      · exact key (by simp [hx])
      · exact hx
      · exact key (by simp [hx])
    subst this
    have hr : s.rpAct e v x = (s2, .ok a) := by
      simpa [State.prepMove, hp, hc, ht, hs, hd.2] using hm
    simp only [hr]
    exact prepMoves_one h hm

/-- Acts of plain moves run to no effect. -/
theorem runActs_plain {α : Type} (l : List α) (s : State) : runActs (l.map fun _ => ({} : Act)) s = .ok s := by
  induction l with
  | nil => rfl
  | cons x l ih => exact ih

/-- The acts around one trigger run as its act. -/
theorem runActs_one {α : Type} (pre post : List α) (a : Act) (s : State) :
    runActs (pre.map (fun _ => ({} : Act)) ++ a :: post.map fun _ => {}) s = a.run s := by
  induction pre with
  | nil =>
    simp only [List.map_nil, List.nil_append, runActs]
    cases h : a.run s with
    | error x => rfl
    | ok s' => simp only [runActs_plain]
  | cons x l ih => simpa [runActs] using ih

/-- What the acts around one trigger find is what its act gives. -/
theorem findSome_one {α β : Type} (pre post : List α) (a : Act) (f : Act → Option β) (h : f {} = none) :
    (pre.map (fun _ => ({} : Act)) ++ a :: post.map fun _ => {}).findSome? f = f a := by
  have hn (l : List α) : (l.map fun _ => ({} : Act)).findSome? f = none := by
    induction l with
    | nil => rfl
    | cons x l ih => simp [h]
  rw [List.findSome?_append, hn]
  simp only [List.findSome?, Option.none_or]
  split
  · next h => exact h.symm
  · next h => rw [hn, h]

/-- The guards that the acts around one trigger write. -/
theorem guards_one {α : Type} (pre post : List α) (a : Act) (g : Eng) :
    (pre.map (fun _ => ({} : Act)) ++ a :: post.map fun _ => {}).foldl (fun g a => g.guardPut a.guard a.gval) g =
      g.guardPut a.guard a.gval := by
  have hn (l : List α) (g : Eng) : (l.map fun _ => ({} : Act)).foldl (fun g a => g.guardPut a.guard a.gval) g = g := by
    induction l generalizing g with
    | nil => rfl
    | cons x l ih => simpa [Eng.guardPut] using ih g
  rw [List.foldl_append, hn, List.foldl_cons, hn]

/-- No move of a bundle with a unit trigger goes to a control register. -/
theorem crs_one {s : State} {e : Nat} {l : List Mv} (h : ∀ m ∈ l, isCr m.dst = false) :
    l.foldl (fun s m => if isCr m.dst then s.crPut e (m.dst - 0x100) (m.val.setWidth 64) else s) s = s := by
  induction l generalizing s with
  | nil => rfl
  | cons m l ih =>
    simp only [List.mem_cons, forall_eq_or_imp] at h
    simpa [h.1] using ih h.2

/-- The engine as a bundle with one trigger ends: its guard, the bundle count, and where it continues. -/
def Eng.closed (as : List Act) (a : Act) (g : Eng) : Eng :=
  Eng.step { (g.guardPut a.guard a.gval).countUp with nb := (g.guardPut a.guard a.gval).nb + 1 } as

/-- A bundle with one trigger, which has no late effect, retires. -/
theorem retire_one {s s' : State} {e : Nat} {m : Mv} {pre post : List Mv} {a : Act}
    (hc : ∀ x ∈ pre ++ m :: post, isCr x.dst = false) (hr : a.run (s.begun e (pre ++ m :: post)) = .ok s')
    (hl : a.late = none) :
    s.retire e (pre ++ m :: post) (pre.map (fun _ => ({} : Act)) ++ a :: post.map fun _ => {}) =
      (s, .ok (s'.modEng e (Eng.closed (pre.map (fun _ => ({} : Act)) ++ a :: post.map fun _ => {}) a))) := by
  unfold State.retire
  simp only [runActs_one, hr, guards_one, State.crMoves, crs_one hc, findSome_one pre post a Act.late rfl, hl]
  simp only [State.modEng_modEng]
  rfl

/-- No trigger is a control register id. -/
theorem isTrig_not_cr {p : Nat} (h : isTrig p = true) : isCr p = false := by
  simp only [isTrig, trigTable, List.any_cons, List.any_nil, Bool.or_false, Bool.or_eq_true, Bool.and_eq_true,
    decide_eq_true_eq] at h
  simp only [isCr, Bool.and_eq_false_iff, decide_eq_false_iff_not]
  omega

/-- A bundle with one trigger that is neither string-class nor PX.t.begin or PX.t.peek runs to its retirement. -/
theorem runBundle_one {s1 s2 s' : State} {e : Nat} {b : Bundle} {v : Env} {m : Mv} {a : Act} {pre post : List Mv}
    (h : s1.moves e b = pre ++ m :: post) (hp : (pre ++ post).all (·.plain b) = true) (ht : isTrig m.dst = true)
    (hq : m.pairBad (slotsOf b) = false)
    (hm : s1.prepMove e v (s1.latched e b) (slotsOf b) m = (s2, .ok a)) (hw : a.waits = [])
    (hs : isStr m.dst = false) (h1 : m.dst ≠ 0x3D0) (h2 : m.dst ≠ 0x3D1)
    (hr : a.run (s2.begun e (s1.moves e b)) = .ok s') (hl : a.late = none) :
    s1.runBundle e b v = .next (s'.modEng e (Eng.closed (pre.map (fun _ => ({} : Act)) ++ a :: post.map fun _ => {}) a)) := by
  have hpl : ∀ x ∈ pre ++ post, isTrig x.dst = false ∧ isCr x.dst = false := by
    intro x hx
    have := List.all_eq_true.mp hp x hx
    simp only [Mv.plain, Bool.and_eq_true, Bool.not_eq_true'] at this
    exact this.1
  have hc : ∀ x ∈ pre ++ m :: post, isCr x.dst = false := by
    intro x hx
    simp only [List.mem_append, List.mem_cons] at hx
    rcases hx with hx | rfl | hx
    · exact (hpl x (by simp [hx])).2
    · exact isTrig_not_cr ht
    · exact (hpl x (by simp [hx])).2
  have hpx : ∀ x ∈ pre ++ m :: post, isStr x.dst = false ∧ x.dst ≠ 0x3D0 ∧ x.dst ≠ 0x3D1 := by
    intro x hx
    have key : isTrig x.dst = false → isStr x.dst = false ∧ x.dst ≠ 0x3D0 ∧ x.dst ≠ 0x3D1 := by
      intro hx
      simp only [isTrig, trigTable, List.any_cons, List.any_nil, Bool.or_false, Bool.or_eq_false_iff,
        Bool.and_eq_false_iff, decide_eq_false_iff_not] at hx
      simp only [isStr, Bool.or_eq_false_iff, Bool.and_eq_false_iff, decide_eq_false_iff_not]
      omega
    simp only [List.mem_append, List.mem_cons] at hx
    rcases hx with hx | rfl | hx
    · exact key (hpl x (by simp [hx])).1
    · exact ⟨hs, h1, h2⟩
    · exact key (hpl x (by simp [hx])).1
  have hstr : (s1.moves e b).find? (fun m => isStr m.dst) = none := by
    rw [h, List.find?_eq_none]; intro x hx; simp [(hpx x hx).1]
  have hpb : (s1.moves e b).find? (fun m => m.dst = 0x3D0 || m.dst = 0x3D1) = none := by
    rw [h, List.find?_eq_none]; intro x hx; simp [(hpx x hx).2.1, (hpx x hx).2.2]
  have hws : ((pre.map (fun _ => ({} : Act)) ++ a :: post.map fun _ => {}).map Act.waits).flatten.eraseDups = [] := by
    have hn (l : List Mv) : ((l.map fun _ => ({} : Act)).map Act.waits).flatten = [] := by
      induction l with
      | nil => rfl
      | cons x l ih => simp
    simp only [List.map_append, List.map_cons, List.flatten_append, List.flatten_cons, hn, hw]
    rfl
  unfold State.runBundle
  have hprep := prepAll_one (e := e) (v := v) (po := s1.latched e b) hp ht hq hs hm
  rw [← h] at hprep
  simp only [State.latched] at hprep
  simp only [hprep, hws, hstr, hpb, pxWaits]
  rw [h] at hr ⊢
  rw [retire_one hc hr hl]
  rfl

/-- Moves to registers change nothing but tally, guard and palette registers. -/
theorem regMoves_rest (l : List Mv) : ∀ g : Eng, { g.regMoves l with t := g.t, p := g.p, b := g.b } = g := by
  induction l with
  | nil => intro g; rfl
  | cons m l ih =>
    intro g
    have key (g' : Eng) (h : { g' with t := g.t, p := g.p, b := g.b } = g) :
        { g'.regMoves l with t := g.t, p := g.p, b := g.b } = g :=
      (congrArg (fun x : Eng => { x with t := g.t, p := g.p, b := g.b }) (ih g')).trans h
    unfold Eng.regMoves
    rw [List.foldl_cons]
    apply key
    dsimp only
    split
    · split <;> rfl
    · split
      · rfl
      · split <;> rfl

/-- One change after another. -/
theorem UnitChange.trans {a b c : Eng} {k : Nat} (h : UnitChange a b k) (h' : UnitChange b c k) : UnitChange a c k where
  tally := h'.tally.trans h.tally
  palette := h'.palette.trans h.palette
  guards i hi := (h'.guards i hi).trans (h.guards i hi)
  side := ⟨h'.side.1.trans h.side.1, h'.side.2.trans h.side.2⟩
  cr := (congrArg (fun x : Cr => { x with
    aflag := a.cr.aflag, cyc := a.cr.cyc, lc := a.cr.lc, esw := a.cr.esw }) h'.cr).trans h.cr
  esw := (congrArg (fun x : Esw => { x with
    bp := a.cr.esw.bp, la := a.cr.esw.la, cb := a.cr.esw.cb }) h'.esw).trans h.esw
  set := by
    have h1 := h.set; have h2 := h'.set
    refine ⟨h2.1.trans h1.1, ?_⟩
    rw [h1.1] at h2
    split
    · next h => simp only [h, if_true] at h1 h2; exact h2.2.trans h1.2
    · next h => simp only [h, Bool.false_eq_true, if_false] at h1 h2; exact h2.2.trans h1.2

/-- A write of a guard. -/
theorem guardPut_change (g : Eng) (i : Nat) (v : Bool) : UnitChange g (g.guardPut i v) i := by
  unfold Eng.guardPut
  by_cases h : i = 0
  · simp only [h, if_true]; exact ⟨rfl, rfl, fun _ _ => rfl, ⟨rfl, rfl⟩, rfl, rfl, rfl, by split <;> rfl⟩
  · simp only [h, if_false]
    refine ⟨rfl, rfl, fun j hj => ?_, ⟨rfl, rfl⟩, rfl, rfl, rfl, by split <;> rfl⟩
    have hb : (BitVec.ofNat 16 (2 ^ i)).getLsbD j = false := by
      rw [BitVec.getLsbD_ofNat, Nat.testBit_two_pow]
      simp [Ne.symm hj]
    cases v
    · by_cases h16 : j < 16
      · simp only [Bool.false_eq_true, if_false, BitVec.getLsbD_and, BitVec.getLsbD_not, hb, h16, decide_true,
          Bool.not_false, Bool.and_true]
      · have := BitVec.getLsbD_of_ge (g.p &&& ~~~BitVec.ofNat 16 (2 ^ i)) j (by omega)
        have h2 := BitVec.getLsbD_of_ge g.p j (by omega)
        simp only [Bool.false_eq_true, if_false, this, h2]
    · simp only [if_true, BitVec.getLsbD_or, hb, Bool.or_false]

/-- Where the engine continues. -/
theorem after_change (g : Eng) (pc : BitVec 32) (k : Nat) : UnitChange g (g.after pc) k := by
  unfold Eng.after
  dsimp only
  split
  · split <;> exact ⟨rfl, rfl, fun _ _ => rfl, ⟨rfl, rfl⟩, rfl, rfl, rfl, by split <;> rfl⟩
  · exact ⟨rfl, rfl, fun _ _ => rfl, ⟨rfl, rfl⟩, rfl, rfl, rfl, by split <;> rfl⟩

/-- Where the engine continues after a bundle. -/
theorem step_change (g : Eng) (as : List Act) (k : Nat) : UnitChange g (g.step as) k := by
  unfold Eng.step
  dsimp only
  split
  · exact (after_change g g.pc k).trans ⟨rfl, rfl, fun _ _ => rfl, ⟨rfl, rfl⟩, rfl, rfl, rfl, by split <;> rfl⟩
  · exact ⟨rfl, rfl, fun _ _ => rfl, ⟨rfl, rfl⟩, rfl, rfl, rfl, by split <;> rfl⟩
  · split
    · exact (after_change g g.pc k).trans ⟨rfl, rfl, fun _ _ => rfl, ⟨rfl, rfl⟩, rfl, rfl, rfl, by split <;> rfl⟩
    · exact after_change g g.pc k

/-- The end of a bundle with one trigger. -/
theorem closed_change (g : Eng) (as : List Act) (a : Act) : UnitChange g (Eng.closed as a g) a.guard := by
  unfold Eng.closed
  refine (guardPut_change g a.guard a.gval).trans (UnitChange.trans ?_ (step_change _ as a.guard))
  exact ⟨rfl, rfl, fun _ _ => rfl, ⟨rfl, rfl⟩, rfl, rfl, rfl, by split <;> rfl⟩

/-- The end of a bundle changes no port. -/
@[simp] theorem closed_ports (g : Eng) (as : List Act) (a : Act) :
    (Eng.closed as a g).prog = g.prog ∧ (Eng.closed as a g).hand = g.hand ∧ (Eng.closed as a g).hset = g.hset ∧
      (Eng.closed as a g).cr.aflag = g.cr.aflag := by
  have hg (i : Nat) (v : Bool) : (g.guardPut i v).prog = g.prog ∧ (g.guardPut i v).hand = g.hand ∧
      (g.guardPut i v).hset = g.hset ∧ (g.guardPut i v).cr.aflag = g.cr.aflag := by
    unfold Eng.guardPut; split <;> exact ⟨rfl, rfl, rfl, rfl⟩
  have ha (g : Eng) (pc : BitVec 32) : (g.after pc).prog = g.prog ∧ (g.after pc).hand = g.hand ∧
      (g.after pc).hset = g.hset ∧ (g.after pc).cr.aflag = g.cr.aflag := by
    unfold Eng.after; dsimp only; split
    · split <;> exact ⟨rfl, rfl, rfl, rfl⟩
    · exact ⟨rfl, rfl, rfl, rfl⟩
  have hs (g : Eng) : (g.step as).prog = g.prog ∧ (g.step as).hand = g.hand ∧
      (g.step as).hset = g.hset ∧ (g.step as).cr.aflag = g.cr.aflag := by
    unfold Eng.step; dsimp only; split
    · exact ha g g.pc
    · exact ⟨rfl, rfl, rfl, rfl⟩
    · split
      · exact ha g g.pc
      · exact ha g g.pc
  have h1 := hg a.guard a.gval
  have h2 := hs { (g.guardPut a.guard a.gval).countUp with nb := (g.guardPut a.guard a.gval).nb + 1 }
  exact ⟨h2.1.trans h1.1, h2.2.1.trans h1.2.1, h2.2.2.1.trans h1.2.2.1, h2.2.2.2.trans h1.2.2.2⟩

/-- The engine as its bundle's moves begin to take effect. -/
theorem begun_eng (s : State) (e : Nat) (l : List Mv) :
    (∃ c : W64, (s.begun e l).eng e = (({ s.eng e with cr := { (s.eng e).cr with cyc := c } }).setPorts (s.eng e).hset
      fun q => latchMoves q l).regMoves l) ∧ OnlyEngine s (s.begun e l) e := by
  unfold State.begun
  simp only [State.eng_modEng_self]
  split
  · next m _ _ => 
    refine ⟨⟨m.val.setWidth 64, ?_⟩, rfl, fun j hj => ?_⟩
    · rw [State.eng_draw, State.eng_modEng_self]
    · rw [State.eng_modEng_ne _ _ hj, State.eng_draw, State.eng_modEng_ne _ _ hj]
  · exact ⟨⟨(s.eng e).cr.cyc, rfl⟩, rfl, fun j hj => State.eng_modEng_ne s _ hj⟩

/-- A bundle with one unit trigger leaves what BundleFrame says, given what its trigger changes in the engine. -/
theorem frame_one {s : State} {e : Nat} {b : Bundle} {k : Nat} {F : Eng → Eng}
    (hF : UnitChange ((s.begun e (s.moves e b)).eng e) (F ((s.begun e (s.moves e b)).eng e)) k) :
    BundleFrame s ((s.begun e (s.moves e b)).modEng e F) e b k := by
  obtain ⟨⟨c, hc⟩, ho⟩ := begun_eng s e (s.moves e b)
  have hr (g : Eng) := regMoves_rest (s.moves e b) g
  generalize hx : s.begun e (s.moves e b) = x at *
  have h := hF
  have hreg : (x.eng e).t = ((s.eng e).regMoves (s.moves e b)).t ∧ (x.eng e).b = ((s.eng e).regMoves (s.moves e b)).b ∧
      (x.eng e).p = ((s.eng e).regMoves (s.moves e b)).p := by
    rw [hc]
    have hl (l : List Mv) : ∀ g g' : Eng, g'.t = g.t → g'.b = g.b → g'.p = g.p →
        (g'.regMoves l).t = (g.regMoves l).t ∧ (g'.regMoves l).b = (g.regMoves l).b ∧
          (g'.regMoves l).p = (g.regMoves l).p := by
      induction l with
      | nil => intro g g' h1 h2 h3; exact ⟨h1, h2, h3⟩
      | cons m l ih =>
        intro g g' h1 h2 h3
        unfold Eng.regMoves
        rw [List.foldl_cons, List.foldl_cons]
        apply ih <;> dsimp only <;> (repeat' split) <;> simp only [h1, h2, h3]
    apply hl <;> (unfold Eng.setPorts; split <;> rfl)
  have hrest : x.eng e = { x.eng e with t := (x.eng e).t } := rfl
  have hb := hr ((({ s.eng e with cr := { (s.eng e).cr with cyc := c } }).setPorts (s.eng e).hset
      fun q => latchMoves q (s.moves e b)))
  rw [← hc] at hb
  have hm : (x.eng e).mem = (s.eng e).mem ∧ (x.eng e).sync = (s.eng e).sync ∧
      (x.eng e).cr = { (s.eng e).cr with cyc := c } ∧ (x.eng e).hset = (s.eng e).hset ∧
      (if (s.eng e).hset then (x.eng e).prog = (s.eng e).prog else (x.eng e).hand = (s.eng e).hand) := by
    have h1 := congrArg Eng.mem hb
    have h2 := congrArg Eng.sync hb
    have h3 := congrArg Eng.cr hb
    have h4 := congrArg Eng.hset hb
    have h5 := congrArg Eng.prog hb
    have h6 := congrArg Eng.hand hb
    unfold Eng.setPorts at h1 h2 h3 h4 h5 h6
    split at h1 <;> rename_i hh <;> simp only [hh, if_true, if_false, Bool.false_eq_true] at h1 h2 h3 h4 h5 h6 ⊢
    · exact ⟨h1, h2, h3, h4, h5⟩
    · exact ⟨h1, h2, h3, h4, h6⟩
  refine ⟨⟨?_, fun j hj => ?_⟩, ?_, ?_, ?_, ?_, ?_, ?_, ?_⟩
  · have := ho.1
    simp only [State.modEng, State.setEng]
    rw [this]
  · rw [State.eng_modEng_ne _ _ hj, ho.2 j hj]
  all_goals simp only [State.eng_modEng_self]
  · exact h.tally.trans hreg.1
  · exact h.palette.trans hreg.2.1
  · intro i hi; rw [h.guards i hi, hreg.2.2]
  · exact ⟨h.side.1.trans hm.1, h.side.2.trans hm.2.1⟩
  · have := h.cr
    rw [hm.2.2.1] at this
    exact congrArg (fun y : Cr => { y with cyc := (s.eng e).cr.cyc }) this
  · have := h.esw
    rw [hm.2.2.1] at this
    exact this
  · have h1 := h.set
    refine ⟨h1.1.trans hm.2.2.2.1, ?_⟩
    have h2 := h1.2
    have h3 := hm.2.2.2.2
    rw [hm.2.2.2.1] at h2
    split
    · next hh => simp only [hh, if_true] at h2 h3; exact h2.trans h3
    · next hh => simp only [hh, Bool.false_eq_true, if_false] at h2 h3; exact h2.trans h3

/-- The ports as a bundle's moves begin to take effect, and AFLAG. -/
theorem begun_ports (s : State) (e : Nat) (b : Bundle) :
    ((s.begun e (s.moves e b)).eng e).ports = s.latched e b ∧
      ((s.begun e (s.moves e b)).eng e).hset = (s.eng e).hset ∧
      ((s.begun e (s.moves e b)).eng e).cr.aflag = (s.eng e).cr.aflag := by
  obtain ⟨⟨c, hc⟩, -⟩ := begun_eng s e (s.moves e b)
  have hb := regMoves_rest (s.moves e b) ((({ s.eng e with cr := { (s.eng e).cr with cyc := c } }).setPorts
    (s.eng e).hset fun q => latchMoves q (s.moves e b)))
  rw [← hc] at hb
  have h3 := congrArg (fun g : Eng => g.cr.aflag) hb
  have h4 := congrArg Eng.hset hb
  have h5 := congrArg Eng.prog hb
  have h6 := congrArg Eng.hand hb
  unfold Eng.setPorts at h3 h4 h5 h6
  unfold State.latched Eng.ports
  split at h3 <;> rename_i hh <;> simp only [hh, if_true, if_false, Bool.false_eq_true] at h3 h4 h5 h6 ⊢
  · simp only [h4, if_true]; exact ⟨h6, trivial, h3⟩
  · simp only [h4, Bool.false_eq_true, if_false]; exact ⟨h5, trivial, h3⟩

/-- A bundle with one trigger that changes its engine by a function. -/
theorem unit_one {s s1 : State} {e : Nat} {b : Bundle} {v : Env} {m : Mv} {a : Act} {F : Eng → Eng}
    (hi : Issues s e b v s1) (ht : Triggers s1 e b m)
    (hm : s1.prepMove e v (s1.latched e b) (slotsOf b) m = (s1, .ok a)) (hw : a.waits = [])
    (hs : isStr m.dst = false) (h1 : m.dst ≠ 0x3D0) (h2 : m.dst ≠ 0x3D1) (hr : ∀ x, a.run x = .ok (x.modEng e F))
    (hl : a.late = none) (hF : ∀ g, g.hset = (s1.eng e).hset → UnitChange g (F g) a.guard) :
    ∃ t as, s.issue e b v = .next t ∧ BundleFrame s1 t e b a.guard ∧
      t.eng e = Eng.closed as a (F ((s1.begun e (s1.moves e b)).eng e)) := by
  obtain ⟨h3, h4, pre, post, h5, h6⟩ := ht
  have h := runBundle_one h5 h6 h3 h4 hm hw hs h1 h2 (hr _) hl
  rw [issue_of_issues hi, h, State.modEng_modEng]
  have hset := (begun_ports s1 e b).2.1
  refine ⟨_, pre.map (fun _ => ({} : Act)) ++ a :: post.map fun _ => {}, rfl,
    frame_one ((hF _ hset).trans (closed_change _ _ a)), ?_⟩
  rw [State.eng_modEng_self]

/-- The ports of an engine as a bundle ends. -/
theorem closed_ports' (g : Eng) (as : List Act) (a : Act) : (Eng.closed as a g).ports = g.ports := by
  have h := closed_ports g as a
  unfold Eng.ports
  rw [h.1, h.2.1, h.2.2.1]

/-- The guard that a bundle's trigger writes. -/
theorem closed_guard (g : Eng) (as : List Act) (a : Act) (h : a.guard ≠ 0) (h16 : a.guard < 16) :
    (Eng.closed as a g).p.getLsbD a.guard = a.gval := by
  have hs (g : Eng) : (g.step as).p = g.p := by
    unfold Eng.step Eng.after; dsimp only; repeat' split
    all_goals rfl
  have hb : (BitVec.ofNat 16 (2 ^ a.guard)).getLsbD a.guard = true := by
    rw [BitVec.getLsbD_ofNat, Nat.testBit_two_pow]; simp [h16]
  unfold Eng.closed
  rw [hs]
  show (g.guardPut a.guard a.gval).p.getLsbD a.guard = a.gval
  unfold Eng.guardPut
  rw [if_neg h]
  cases a.gval
  · simp only [Bool.false_eq_true, if_false, BitVec.getLsbD_and, BitVec.getLsbD_not, hb, Bool.not_true, Bool.and_false]
  · simp only [if_true, BitVec.getLsbD_or, hb, Bool.or_true]

/-- A change of the port set in use, and of AFLAG, is one a unit trigger may make. -/
theorem setPorts_change (g : Eng) (h : Bool) (f : Ports → Ports) (k : Nat) (hh : g.hset = h) :
    UnitChange g (g.setPorts h f) k := by
  subst hh
  unfold Eng.setPorts
  split <;> exact ⟨rfl, rfl, fun _ _ => rfl, ⟨rfl, rfl⟩, rfl, rfl, rfl, by simp_all⟩

/-- The ports in use after a change of them. -/
theorem ports_setPorts (g : Eng) (f : Ports → Ports) : (g.setPorts g.hset f).ports = f g.ports := by
  unfold Eng.setPorts Eng.ports
  split <;> simp_all

end Sys2Proof.Machine
end

