-- ==== Sys2Proof/Laws/Bundle.lean ====
section
/-! SUPPORT. Bundles with one trigger, by what the trigger's act is: plain, a branch, late, string-class, a PX wait. -/

namespace Sys2Proof.Machine

/-- The acts of a bundle's moves around its trigger's. -/
def actsOne (pre post : List Mv) (a : Act) : List Act := pre.map (fun _ => ({} : Act)) ++ a :: post.map fun _ => {}

/-- No plain move goes to a string-class port, to PX.t.begin or PX.t.peek, or to a control register. -/
theorem plain_not {b : Bundle} {x : Mv} (h : x.plain b = true) :
    isStr x.dst = false ∧ x.dst ≠ 0x3D0 ∧ x.dst ≠ 0x3D1 ∧ isCr x.dst = false := by
  simp only [Mv.plain, Bool.and_eq_true, Bool.not_eq_true'] at h
  obtain ⟨⟨h1, h2⟩, h3⟩ := h
  simp only [isTrig, trigTable, List.any_cons, List.any_nil, Bool.or_false, Bool.or_eq_false_iff,
    Bool.and_eq_false_iff, decide_eq_false_iff_not] at h1
  simp only [isStr, Bool.or_eq_false_iff, Bool.and_eq_false_iff, decide_eq_false_iff_not]
  exact ⟨by omega, by omega, by omega, h2⟩

/-- What a search among a bundle's moves finds when plain moves do not match. -/
theorem find_one {b : Bundle} {m : Mv} {pre post : List Mv} {p : Mv → Bool} (hp : (pre ++ post).all (·.plain b) = true)
    (h : ∀ x : Mv, x.plain b = true → p x = false) :
    (pre ++ m :: post).find? p = if p m then some m else none := by
  simp only [List.all_append, Bool.and_eq_true] at hp
  have hn (l : List Mv) (hl : l.all (·.plain b) = true) : l.find? p = none := by
    rw [List.find?_eq_none]; intro x hx; rw [h x (List.all_eq_true.mp hl x hx)]; decide
  rw [List.find?_append, hn pre hp.1, Option.none_or, List.find?_cons]
  cases hm : p m
  · simpa using hn post hp.2
  · simp

/-- The waits of a bundle with one trigger. -/
theorem waits_one (pre post : List Mv) {a : Act} (hw : a.waits = []) :
    (!((actsOne pre post a).map Act.waits).flatten.eraseDups.isEmpty) = false := by
  have hn (l : List Mv) : ((l.map fun _ => ({} : Act)).map Act.waits).flatten = [] := by
    induction l with
    | nil => rfl
    | cons x l ih => simp
  simp only [actsOne, List.map_append, List.map_cons, List.flatten_append, List.flatten_cons, hn, hw]
  rfl

/-- A bundle with one trigger that is neither string-class nor a PX wait retires. -/
theorem runBundle_retire {s1 s2 : State} {e : Nat} {b : Bundle} {v : Env} {m : Mv} {a : Act} {pre post : List Mv}
    (h : s1.moves e b = pre ++ m :: post) (hp : (pre ++ post).all (·.plain b) = true) (ht : isTrig m.dst = true)
    (hq : m.pairBad (slotsOf b) = false)
    (hm : s1.prepMove e v (s1.latched e b) (slotsOf b) m = (s2, .ok a)) (hw : a.waits = [])
    (hs : isStr m.dst = false) (h1 : m.dst ≠ 0x3D0) (h2 : m.dst ≠ 0x3D1) :
    s1.runBundle e b v = match s2.retire e (pre ++ m :: post) (actsOne pre post a) with
      | (s3, .error x) => s1.halted s3 e (ueLines v) 0 x
      | (_, .ok t) => .next t := by
  have hstr : (s1.moves e b).find? (fun m => isStr m.dst) = none := by
    rw [h, find_one hp fun x hx => (plain_not hx).1, hs]; rfl
  have hpb : (s1.moves e b).find? (fun m => m.dst = 0x3D0 || m.dst = 0x3D1) = none := by
    rw [h, find_one hp fun x hx => by simp [(plain_not hx).2.1, (plain_not hx).2.2.1]]
    simp [h1, h2]
  have hprep := prepAll_one (e := e) (v := v) (po := s1.latched e b) hp ht hq hs hm
  rw [← h] at hprep
  simp only [State.latched] at hprep
  unfold State.runBundle
  simp only [hprep, hstr, hpb, pxWaits]
  rw [show (pre.map (fun _ => ({} : Act)) ++ a :: post.map fun _ => {}) = actsOne pre post a from rfl, waits_one pre post hw, h]
  rfl

/-- No move of a bundle with one trigger goes to a control register. -/
theorem one_not_cr {b : Bundle} {m : Mv} {pre post : List Mv} (hp : (pre ++ post).all (·.plain b) = true)
    (ht : isTrig m.dst = true) : ∀ x ∈ pre ++ m :: post, isCr x.dst = false := by
  intro x hx
  have hpl : ∀ x ∈ pre ++ post, isCr x.dst = false := fun x hx => (plain_not (List.all_eq_true.mp hp x hx)).2.2.2
  simp only [List.mem_append, List.mem_cons] at hx
  rcases hx with hx | rfl | hx
  · exact hpl x (by simp [hx])
  · exact isTrig_not_cr ht
  · exact hpl x (by simp [hx])

/-- The acts of a bundle with one trigger branch as it does. -/
theorem branch_one (pre post : List Mv) (a : Act) : (actsOne pre post a).findSome? Act.branch = a.branch :=
  findSome_one pre post a Act.branch rfl

/-- The acts of a bundle with one trigger skip as it does. -/
theorem skip_one (pre post : List Mv) (a : Act) : (actsOne pre post a).findSome? Act.skip = a.skip :=
  findSome_one pre post a Act.skip rfl

/-- A bundle whose trigger has no late effect: the state its act gives, and the end of the bundle. -/
theorem trigger_runs {s s1 s2 s' : State} {e : Nat} {b : Bundle} {v : Env} {m : Mv} {a : Act}
    (hi : Issues s e b v s1) (ht : Triggers s1 e b m)
    (hm : s1.prepMove e v (s1.latched e b) (slotsOf b) m = (s2, .ok a)) (hw : a.waits = [])
    (hs : isStr m.dst = false) (h1 : m.dst ≠ 0x3D0) (h2 : m.dst ≠ 0x3D1)
    (hr : a.run (s2.begun e (s1.moves e b)) = .ok s') (hl : a.late = none) :
    ∃ as, s.issue e b v = .next (s'.modEng e (Eng.closed as a)) ∧ as.findSome? Act.branch = a.branch ∧
      as.findSome? Act.skip = a.skip := by
  obtain ⟨h3, h4, pre, post, h5, h6⟩ := ht
  rw [issue_of_issues hi, runBundle_retire h5 h6 h3 h4 hm hw hs h1 h2]
  rw [h5] at hr
  refine ⟨actsOne pre post a, ?_, branch_one pre post a, skip_one pre post a⟩
  have := retire_one (e := e) (one_not_cr h6 h3) hr hl
  rw [show (pre.map (fun _ => ({} : Act)) ++ a :: post.map fun _ => {}) = actsOne pre post a from rfl] at this
  rw [this]

/-- A bundle whose trigger has a late effect. -/
theorem trigger_late {s s1 s2 s' : State} {e : Nat} {b : Bundle} {v : Env} {m : Mv} {a : Act}
    {f : State → State × Except Halt State}
    (hi : Issues s e b v s1) (ht : Triggers s1 e b m)
    (hm : s1.prepMove e v (s1.latched e b) (slotsOf b) m = (s2, .ok a)) (hw : a.waits = [])
    (hs : isStr m.dst = false) (h1 : m.dst ≠ 0x3D0) (h2 : m.dst ≠ 0x3D1)
    (hr : a.run (s2.begun e (s1.moves e b)) = .ok s') (hl : a.late = some f) (hg : a.guard = 0) :
    s.issue e b v = match f (s'.counted e) with
      | (s3, .error x) => s1.halted (s2.keepMicro s3 e) e (ueLines v) 0 x
      | (_, .ok t) => .next t := by
  obtain ⟨h3, h4, pre, post, h5, h6⟩ := ht
  rw [issue_of_issues hi, runBundle_retire h5 h6 h3 h4 hm hw hs h1 h2]
  rw [h5] at hr
  unfold State.retire
  have hc := one_not_cr h6 h3
  simp only [actsOne, runActs_one, hr, guards_one, State.crMoves, crs_one hc, findSome_one pre post a Act.late rfl, hl, hg]
  simp only [Eng.guardPut, if_true]
  unfold State.counted
  generalize f (s'.modEng e fun g => { g.countUp with nb := g.nb + 1 }) = q
  obtain ⟨q1, _ | q2⟩ := q <;> rfl

/-- The engine as its bundle's effects start, but for CYC, operand ports and tally, guard and palette registers. -/
theorem begun_rest (s : State) (e : Nat) (l : List Mv) :
    { (s.begun e l).eng e with
      t := (s.eng e).t, p := (s.eng e).p, b := (s.eng e).b, prog := (s.eng e).prog, hand := (s.eng e).hand,
      cr := { ((s.begun e l).eng e).cr with cyc := (s.eng e).cr.cyc } } = s.eng e := by
  obtain ⟨⟨c, hc⟩, -⟩ := begun_eng s e l
  rw [hc]
  have h := regMoves_rest l ((({ s.eng e with cr := { (s.eng e).cr with cyc := c } }).setPorts (s.eng e).hset
    fun q => latchMoves q l))
  have h' := congrArg (fun x : Eng => { x with
    t := (s.eng e).t, p := (s.eng e).p, b := (s.eng e).b, prog := (s.eng e).prog, hand := (s.eng e).hand,
    cr := { x.cr with cyc := (s.eng e).cr.cyc } }) h
  refine Eq.trans h' ?_
  unfold Eng.setPorts
  split <;> rfl

/-- Tally registers as a bundle's effects start. -/
theorem begun_t (s : State) (e : Nat) (b : Bundle) :
    ((s.begun e (s.moves e b)).eng e).t = ((s.eng e).regMoves (s.moves e b)).t := by
  have h : UnitChange ((s.begun e (s.moves e b)).eng e) (id ((s.begun e (s.moves e b)).eng e)) 0 :=
    ⟨rfl, rfl, fun _ _ => rfl, ⟨rfl, rfl⟩, rfl, rfl, rfl, by split <;> rfl⟩
  have := (frame_one (F := id) h).tally
  rwa [State.eng_modEng_self] at this

/-- Where an engine continues after a bundle that branches. -/
theorem closed_branch {as : List Act} {a : Act} {bank off : Nat} {j : Bool} (g : Eng)
    (h : as.findSome? Act.branch = some (bank, off, j)) :
    (Eng.closed as a g).pc = g.pc + 16 ∧ (Eng.closed as a g).bt = BitVec.ofNat 48 (bank * 2 ^ 32 + off) ∧
      (Eng.closed as a g).cr.esw.bp = true ∧ (Eng.closed as a g).cr.sp = g.cr.sp ∧ (Eng.closed as a g).nb = g.nb + 1 := by
  have hg : (g.guardPut a.guard a.gval).pc = g.pc ∧ (g.guardPut a.guard a.gval).cr.sp = g.cr.sp ∧
      (g.guardPut a.guard a.gval).nb = g.nb := by
    unfold Eng.guardPut; split <;> exact ⟨rfl, rfl, rfl⟩
  have ha (g : Eng) (pc : BitVec 32) : (g.after pc).cr.sp = g.cr.sp ∧ (g.after pc).nb = g.nb := by
    unfold Eng.after; dsimp only; split
    · split <;> exact ⟨rfl, rfl⟩
    · exact ⟨rfl, rfl⟩
  unfold Eng.closed Eng.step
  simp only [h, ha]
  unfold Eng.countUp
  exact ⟨congrArg (· + 16) hg.1, trivial, trivial, hg.2.1, congrArg (· + 1) hg.2.2⟩

/-- A change of one engine and no other is one of it alone. -/
theorem onlyEngine_modEng (s : State) (e : Nat) (f : Eng → Eng) : OnlyEngine s (s.modEng e f) e :=
  ⟨rfl, fun _ hj => State.eng_modEng_ne s f hj⟩

/-- Changes of one engine follow each other. -/
theorem OnlyEngine.trans {s t u : State} {e : Nat} (h : OnlyEngine s t e) (h' : OnlyEngine t u e) : OnlyEngine s u e := by
  refine ⟨?_, fun j hj => (h'.2 j hj).trans (h.2 j hj)⟩
  rw [h'.1, h.1]

/-- Two changes of one engine that differ in it and in the count of free values only. -/
theorem onlyEngine_draw (s : State) (e : Nat) : OnlyEngine s s.draw e := ⟨rfl, fun _ _ => rfl⟩

end Sys2Proof.Machine
end

