-- ==== Sys2Proof/Laws/Memory.lean ====
section
/-! SUPPORT. The laws of sparse bytes: the canonical form is kept by every write, and a read after a write. -/

namespace Sys2Proof.Machine

/-- Rising from a bound is rising from a lower one. -/
theorem risingFrom_mono {m : Bytes} {a b : Nat} (h : a ≤ b) (r : risingFrom b m = true) : risingFrom a m = true := by
  cases m with
  | nil => rfl
  | cons c r' =>
    obtain ⟨i, v⟩ := c
    simp only [risingFrom, Bool.and_eq_true, decide_eq_true_eq] at r ⊢
    exact ⟨by omega, r.2⟩

/-- Putting a byte in keeps addresses rising. -/
theorem risingFrom_putByte (m : Bytes) (k : Nat) (a : Byte) : ∀ lo, lo ≤ k → risingFrom lo m = true →
    risingFrom lo (putByte m k a) = true := by
  induction m with
  | nil => intro lo h _; simp [putByte, risingFrom, h]
  | cons c r ih =>
    obtain ⟨i, v⟩ := c
    intro lo h hr
    simp only [risingFrom, Bool.and_eq_true, decide_eq_true_eq] at hr
    unfold putByte
    by_cases h1 : k < i
    · simp only [h1, if_true, risingFrom, Bool.and_eq_true, decide_eq_true_eq]
      exact ⟨h, by omega, hr.2⟩
    · by_cases h2 : i = k
      · subst h2
        simp only [h1, if_false, if_true, risingFrom, Bool.and_eq_true, decide_eq_true_eq]
        exact ⟨h, hr.2⟩
      · simp only [h1, h2, if_false, risingFrom, Bool.and_eq_true, decide_eq_true_eq]
        exact ⟨hr.1, ih (i + 1) (by omega) hr.2⟩

/-- Dropping a byte keeps addresses rising. -/
theorem risingFrom_dropByte (m : Bytes) (k : Nat) : ∀ lo, risingFrom lo m = true → risingFrom lo (dropByte m k) = true := by
  induction m with
  | nil => intro lo h; exact h
  | cons c r ih =>
    obtain ⟨i, v⟩ := c
    intro lo hr
    have hr' := hr
    simp only [risingFrom, Bool.and_eq_true, decide_eq_true_eq] at hr
    unfold dropByte
    by_cases h2 : i = k
    · simp only [h2, if_true]; exact risingFrom_mono (by omega) hr.2
    · by_cases h1 : k < i
      · simp only [h2, h1, if_false, if_true]; exact hr'
      · simp only [h2, h1, if_false, risingFrom, Bool.and_eq_true, decide_eq_true_eq]
        exact ⟨hr.1, ih (i + 1) hr.2⟩

/-- Every byte of the map after a byte that is not 0 is put in is not 0. -/
theorem all_putByte (m : Bytes) (k : Nat) (a : Byte) (h : a ≠ 0) (hm : (m.all fun c => decide (c.2 ≠ 0)) = true) :
    ((putByte m k a).all fun c => decide (c.2 ≠ 0)) = true := by
  have h' : decide (a ≠ 0) = true := decide_eq_true h
  induction m with
  | nil => simp only [putByte, List.all_cons, List.all_nil, h', Bool.and_self]
  | cons c r ih =>
    obtain ⟨i, v⟩ := c
    simp only [List.all_cons, Bool.and_eq_true] at hm
    unfold putByte
    by_cases h1 : k < i
    · rw [if_pos h1]
      simp only [List.all_cons, h', hm.1, hm.2, Bool.and_self]
    · rw [if_neg h1]
      by_cases h2 : i = k
      · rw [if_pos h2]
        simp only [List.all_cons, h', hm.2, Bool.and_self]
      · rw [if_neg h2]
        simp only [List.all_cons, hm.1, ih hm.2, Bool.and_self]

/-- Every byte of the map after a byte is dropped is not 0. -/
theorem all_dropByte (m : Bytes) (k : Nat) (hm : (m.all fun c => decide (c.2 ≠ 0)) = true) :
    ((dropByte m k).all fun c => decide (c.2 ≠ 0)) = true := by
  induction m with
  | nil => simp [dropByte]
  | cons c r ih =>
    obtain ⟨i, v⟩ := c
    have hm' := hm
    simp only [List.all_cons, Bool.and_eq_true] at hm
    unfold dropByte
    by_cases h2 : i = k
    · simp only [h2, if_true]; exact hm.2
    · by_cases h1 : k < i
      · simp only [h2, h1, if_false, if_true]; exact hm'
      · simp only [h2, h1, if_false, List.all_cons, Bool.and_eq_true]
        exact ⟨hm.1, ih hm.2⟩

/-- A byte written keeps the canonical form. -/
theorem writeByte_wf (m : Bytes) (a : Nat) (v : Byte) (h : Bytes.wf m = true) : Bytes.wf (writeByte m a v) = true := by
  simp only [Bytes.wf, Bool.and_eq_true] at h ⊢
  unfold writeByte
  by_cases hv : v = 0
  · simp only [hv, if_true]
    exact ⟨risingFrom_dropByte m a 0 h.1, all_dropByte m a h.2⟩
  · simp only [hv, if_false]
    exact ⟨risingFrom_putByte m a v 0 (Nat.zero_le _) h.1, all_putByte m a v hv h.2⟩

/-- Bytes written keep the canonical form. -/
theorem writeBytes_wf (l : List Byte) : ∀ (m : Bytes) (a : Nat), Bytes.wf m = true → Bytes.wf (writeBytes m a l) = true := by
  induction l with
  | nil => intro m a h; exact h
  | cons v l ih => intro m a h; exact ih _ _ (writeByte_wf m a v h)

/-- Physical memory written keeps the canonical form. -/
theorem State.wr_memWf (s : State) (a : Nat) (l : List Byte) (h : s.memWf) : (s.wr a l).memWf :=
  ⟨writeBytes_wf l _ _ h.1, h.2⟩

/-- A byte put in is found. -/
theorem getByte_putByte_self (m : Bytes) (k : Nat) (a : Byte) : getByte (putByte m k a) k = some a := by
  induction m with
  | nil => simp [putByte, getByte]
  | cons c r ih =>
    obtain ⟨i, v⟩ := c
    unfold putByte
    by_cases h1 : k < i
    · simp [h1, getByte]
    · by_cases h2 : i = k
      · simp [h2, getByte]
      · simp [h1, h2, getByte, ih]

/-- A byte put in leaves every other. -/
theorem getByte_putByte_ne (m : Bytes) {k j : Nat} (a : Byte) (h : j ≠ k) : getByte (putByte m k a) j = getByte m j := by
  induction m with
  | nil =>
    have h' : ¬ k = j := fun x => h x.symm
    simp [putByte, getByte, h']
  | cons c r ih =>
    obtain ⟨i, v⟩ := c
    have h' : ¬ k = j := fun x => h x.symm
    unfold putByte
    by_cases h1 : k < i
    · simp only [h1, if_true, getByte, h', if_false]
      by_cases h3 : j < k
      · have h4 : ¬ i = j := by omega
        have h5 : j < i := by omega
        simp [h3, h4, h5]
      · simp [h3]
    · by_cases h2 : i = k
      · subst h2; simp [getByte, h']
      · simp only [h1, h2, if_false, getByte, ih]

/-- A byte below every listed address is not listed. -/
theorem getByte_below {m : Bytes} : ∀ {lo k : Nat}, risingFrom lo m = true → k < lo → getByte m k = none := by
  cases m with
  | nil => intro lo k _ _; rfl
  | cons c r =>
    obtain ⟨i, v⟩ := c
    intro lo k h hk
    simp only [risingFrom, Bool.and_eq_true, decide_eq_true_eq] at h
    have h1 : ¬ i = k := by omega
    have h2 : k < i := by omega
    simp [getByte, h1, h2]

/-- A byte dropped is not listed. -/
theorem getByte_dropByte_self (m : Bytes) (k : Nat) : ∀ lo, risingFrom lo m = true → getByte (dropByte m k) k = none := by
  induction m with
  | nil => intro lo _; rfl
  | cons c r ih =>
    obtain ⟨i, v⟩ := c
    intro lo h
    have h0 := h
    simp only [risingFrom, Bool.and_eq_true, decide_eq_true_eq] at h
    unfold dropByte
    by_cases h2 : i = k
    · subst h2; simp only [if_true]; exact getByte_below h.2 (Nat.lt_succ_self _)
    · by_cases h1 : k < i
      · simp [h2, h1, getByte]
      · simp only [h2, h1, if_false, getByte]; exact ih _ h.2

/-- A byte dropped leaves every other. -/
theorem getByte_dropByte_ne (m : Bytes) {k j : Nat} (h : j ≠ k) : ∀ lo, risingFrom lo m = true →
    getByte (dropByte m k) j = getByte m j := by
  induction m with
  | nil => intro lo _; rfl
  | cons c r ih =>
    obtain ⟨i, v⟩ := c
    intro lo hr
    simp only [risingFrom, Bool.and_eq_true, decide_eq_true_eq] at hr
    unfold dropByte
    by_cases h2 : i = k
    · subst h2
      have h' : ¬ i = j := fun x => h x.symm
      simp only [if_true, getByte, h', if_false]
      by_cases h3 : j < i
      · simp only [h3, if_true]; exact getByte_below hr.2 (by omega)
      · simp [h3]
    · by_cases h1 : k < i
      · simp [h2, h1]
      · simp only [h2, h1, if_false, getByte]
        rw [ih _ hr.2]

/-- A read after a write to the same address. -/
theorem readByte_writeByte_self (m : Bytes) (a : Nat) (v : Byte) (h : Bytes.wf m = true) :
    readByte (writeByte m a v) a = v := by
  simp only [Bytes.wf, Bool.and_eq_true] at h
  unfold readByte writeByte
  by_cases hv : v = 0
  · rw [if_pos hv, getByte_dropByte_self m a 0 h.1, hv]; rfl
  · rw [if_neg hv, getByte_putByte_self]; rfl

/-- A write leaves every other address. -/
theorem readByte_writeByte_ne (m : Bytes) {a j : Nat} (v : Byte) (h : Bytes.wf m = true) (hj : j ≠ a) :
    readByte (writeByte m a v) j = readByte m j := by
  simp only [Bytes.wf, Bool.and_eq_true] at h
  unfold readByte writeByte
  by_cases hv : v = 0
  · rw [if_pos hv, getByte_dropByte_ne m hj 0 h.1]
  · rw [if_neg hv, getByte_putByte_ne m v hj]

/-- Bytes written leave every address outside them. -/
theorem readByte_writeBytes_out (l : List Byte) : ∀ (m : Bytes) (a j : Nat), Bytes.wf m = true →
    j < a ∨ a + l.length ≤ j → readByte (writeBytes m a l) j = readByte m j := by
  induction l with
  | nil => intro m a j _ _; rfl
  | cons v l ih =>
    intro m a j h hj
    simp only [List.length_cons] at hj
    rw [writeBytes, ih _ _ _ (writeByte_wf m a v h) (by omega), readByte_writeByte_ne m v h (by omega)]

/-- Bytes written read back. -/
theorem readByte_writeBytes_in (l : List Byte) : ∀ (m : Bytes) (a i : Nat), Bytes.wf m = true → i < l.length →
    readByte (writeBytes m a l) (a + i) = l.getD i 0 := by
  induction l with
  | nil => intro m a i _ h; simp at h
  | cons v l ih =>
    intro m a i h hi
    rw [writeBytes]
    cases i with
    | zero =>
      rw [readByte_writeBytes_out l _ _ _ (writeByte_wf m a v h) (by omega)]
      simpa using readByte_writeByte_self m a v h
    | succ n =>
      have := ih (writeByte m a v) (a + 1) n (writeByte_wf m a v h) (by simpa using hi)
      simpa [Nat.add_assoc, Nat.add_comm 1 n] using this

end Sys2Proof.Machine
end

