-- ==== Sys2Proof/Laws/Viari.lean ====
section
/-! SUPPORT. What the end of a Viari command does, once for every command. -/

namespace Sys2Proof.Machine

/-- Only the host interface and the bus differ, and of functions only f. -/
def HostOnly (u t : State) (f : Nat) : Prop :=
  { t with host := u.host, out := u.out } = u ∧ ∀ j, j ≠ f → t.fn j = u.fn j

theorem HostOnly.refl (u : State) (f : Nat) : HostOnly u u f := ⟨rfl, fun _ _ => rfl⟩

theorem HostOnly.trans {u v t : State} {f : Nat} (h : HostOnly u v f) (g : HostOnly v t f) : HostOnly u t f := by
  refine ⟨?_, fun j hj => (g.2 j hj).trans (h.2 j hj)⟩
  have h1 := h.1
  have g1 := g.1
  cases u; cases v; cases t
  simp only [State.mk.injEq] at h1 g1 ⊢
  simp_all

theorem hostOnly_modFn (u : State) (f : Nat) (g : Fn → Fn) : HostOnly u (u.modFn f g) f :=
  ⟨rfl, fun _ hj => State.fn_modFn_ne u g hj⟩

theorem hostOnly_emit (u : State) (f : Nat) (o : Out) : HostOnly u (u.emit o) f := ⟨rfl, fun _ _ => rfl⟩

theorem hostOnly_msix (u : State) (f v : Nat) : HostOnly u (u.msix f v) f := by
  unfold State.msix
  dsimp only
  split
  · exact .refl u f
  · split
    · exact hostOnly_modFn u f _
    · exact hostOnly_emit u f _

/-- A message for a function leaves a ring and a mailbox of it as they are, and takes nothing off the bus. -/
theorem msix_keeps (u : State) (f v n : Nat) : ((u.msix f v).fn f).ring n = (u.fn f).ring n ∧
    (u.msix f v).mbox f n = u.mbox f n ∧ ∀ o ∈ u.out, o ∈ (u.msix f v).out := by
  unfold State.msix
  dsimp only
  split
  · exact ⟨rfl, rfl, fun _ h => h⟩
  · split
    · exact ⟨by rw [State.fn_modFn_self]; rfl, by unfold State.mbox; rw [State.fn_modFn_self], fun _ h => h⟩
    · exact ⟨rfl, rfl, fun _ h => List.mem_cons_of_mem _ h⟩

theorem Fn.told_refl (x : Fn) : x.told x := rfl

theorem Fn.told_trans {x y z : Fn} (h : x.told y) (g : y.told z) : x.told z := by
  unfold Fn.told at *
  rw [← h, ← g]

/-- Only the host interface and the bus differ, of functions other than f only what events leave, and nothing is taken off
the bus. -/
def HostTold (u t : State) (f : Nat) : Prop :=
  { t with host := u.host, out := u.out } = u ∧ (∀ j, j ≠ f → (u.fn j).told (t.fn j)) ∧ ∀ o ∈ u.out, o ∈ t.out

theorem HostTold.refl (u : State) (f : Nat) : HostTold u u f := ⟨rfl, fun _ _ => rfl, fun _ h => h⟩

theorem HostTold.trans {u v t : State} {f : Nat} (h : HostTold u v f) (g : HostTold v t f) : HostTold u t f := by
  refine ⟨?_, fun j hj => Fn.told_trans (h.2.1 j hj) (g.2.1 j hj), fun o ho => g.2.2 o (h.2.2 o ho)⟩
  have h1 := h.1
  have g1 := g.1
  cases u; cases v; cases t
  simp only [State.mk.injEq] at h1 g1 ⊢
  simp_all

theorem HostOnly.told {u t : State} {f : Nat} (h : HostOnly u t f) (ho : ∀ o ∈ u.out, o ∈ t.out) : HostTold u t f :=
  ⟨h.1, fun j hj => by rw [h.2 j hj]; rfl, ho⟩

theorem hostTold_modFn (u : State) (f : Nat) (g : Fn → Fn) : HostTold u (u.modFn f g) f :=
  (hostOnly_modFn u f g).told fun _ h => h

theorem hostTold_emit (u : State) (f : Nat) (o : Out) : HostTold u (u.emit o) f :=
  (hostOnly_emit u f o).told fun _ h => List.mem_cons_of_mem _ h

/-- A function changed only as events leave it. -/
theorem hostTold_other (u : State) (f k : Nat) (g : Fn → Fn) (hg : ∀ x : Fn, x.told (g x)) : HostTold u (u.modFn k g) f :=
  ⟨rfl, fun j _ => by
    by_cases hk : j = k
    · subst hk; rw [State.fn_modFn_self]; exact hg _
    · rw [State.fn_modFn_ne u g hk]; rfl, fun _ h => h⟩

theorem hostTold_msix (u : State) (f k v : Nat) : HostTold u (u.msix k v) f := by
  unfold State.msix
  dsimp only
  split
  · exact .refl u f
  · split
    · exact hostTold_other u f k _ fun _ => rfl
    · exact hostTold_emit u f _

/-- An event written, and its message. -/
theorem hostTold_put (u : State) (f k : Nat) (o : Out) (g : Fn → Fn) (vec : Nat) (b : Prop) [Decidable b]
    (hg : ∀ x : Fn, x.told (g x)) :
    HostTold u (if b then ((u.emit o).modFn k g).msix k vec else (u.emit o).modFn k g) f := by
  have h : HostTold u ((u.emit o).modFn k g) f := (hostTold_emit u f o).trans (hostTold_other _ f k g hg)
  split
  · exact h.trans (hostTold_msix _ f k vec)
  · exact h

/-- An event changes functions only as Fn.told says (R434). -/
theorem hostTold_eventTo (u : State) (f code : Nat) (data : List Byte) (k : Nat) : HostTold u (u.eventTo code data k).1 f := by
  unfold State.eventTo
  dsimp only
  split
  · exact .refl u f
  · split
    · exact hostTold_other u f k _ fun _ => rfl
    · generalize toBytes 2 code ++ [if (u.fn k).evqPhase then (0x80 : Byte) else 0, 0] ++ toBytes 6 u.trn.turn ++
        toBytes 2 u.trn.tick ++ List.replicate 4 0 ++ slice data 0 16 = entry
      split
      · exact HostTold.trans (hostTold_emit u f _)
          (hostTold_other _ f k (fun x => { x with evqCtl := setBit x.evqCtl 0 false, stat := setBit x.stat 2 true }) fun _ => rfl)
      · exact hostTold_put u f k _ _ _ _ fun _ => rfl

theorem hostTold_eventN (f : Nat) : ∀ n u code data, HostTold u (State.eventN n u code data) f := by
  intro n
  induction n with
  | zero => intro u _ _; exact .refl u f
  | succ n ih =>
    intro u code data
    unfold State.eventN
    generalize List.range 8 = l
    induction l generalizing u with
    | nil => exact .refl u f
    | cons k l il =>
      refine HostTold.trans (hostTold_eventTo u f code data k) (HostTold.trans ?_ (il _))
      dsimp only
      split
      · exact ih _ _ _
      · exact .refl _ f

theorem hostTold_event (u : State) (f code : Nat) (data : List Byte) : HostTold u (u.event code data) f :=
  hostTold_eventN f 9 u code data

theorem hostTold_ringError (u : State) (f n err : Nat) : HostTold u (u.ringError f n err) f :=
  .trans (.trans (hostTold_modFn u f _) (hostTold_modFn _ f _)) (hostTold_event _ f _ _)

/-- What follows a completion's write: its message, and the error where the host refused it. -/
theorem hostTold_written (u : State) (f n vec : Nat) (b c : Prop) [Decidable b] [Decidable c] :
    HostTold u (if c then (if b then u.msix f vec else u).ringError f n 3 else (if b then u.msix f vec else u)) f := by
  have h : HostTold u (if b then u.msix f vec else u) f := by
    split
    · exact hostTold_msix u f f vec
    · exact .refl u f
  split
  · exact h.trans (hostTold_ringError _ f n 3)
  · exact h

/-- Completions written to a ring change only the host interface and add to the bus. -/
theorem hostTold_flushRing (f n : Nat) : ∀ k u, HostTold u (State.flushRing f n k u) f := by
  intro k
  induction k with
  | zero => intro u; exact .refl u f
  | succ k ih =>
    intro u
    unfold State.flushRing
    dsimp only
    split
    · exact .refl u f
    · split
      · exact .refl u f
      · split
        · exact .refl u f
        · exact HostTold.trans (HostTold.trans (hostTold_emit u f _) (hostTold_modFn _ f _))
            (HostTold.trans (hostTold_written _ f n _ _ _) (ih _))

theorem hostOnly_told_msix (u : State) (f vec : Nat) (b : Prop) [Decidable b] :
    HostOnly u (if b then u.msix f vec else u) f := by
  split
  · exact hostOnly_msix u f vec
  · exact .refl u f

/-- While the host refuses no completion write, they leave other functions as they are. -/
theorem hostOnly_flushRing (hc : ∀ id, Config.cqRefused id = false) (f n : Nat) :
    ∀ k u, HostOnly u (State.flushRing f n k u) f := by
  intro k
  induction k with
  | zero => intro u; exact .refl u f
  | succ k ih =>
    intro u
    unfold State.flushRing
    dsimp only
    split
    · exact .refl u f
    · split
      · exact .refl u f
      · split
        · exact .refl u f
        · simp only [hc, Bool.false_eq_true, if_false]
          exact HostOnly.trans (HostOnly.trans (hostOnly_emit u f _) (hostOnly_modFn _ f _))
            (HostOnly.trans (hostOnly_told_msix _ f _ _) (ih _))

@[simp] theorem fld_setFld_low (w : W64) (v : Nat) : fld (setFld w 2 0 v) 2 0 = v % 8 := by
  have h := w.isLt
  simp only [fld, setFld, BitVec.toNat_ofNat, Nat.reducePow, Nat.reduceSub, Nat.reduceAdd, Nat.div_one, Nat.mul_one]
  omega

/-- A response put in a mailbox, with its message. -/
theorem mailbox_answer (w : State) (f m : Nat) (resp : List Byte) :
    let v := w.modMbx f m fun x => { x with rsp := resp, stat := setFld x.stat 2 0 3 }
    ∀ b vec, HostOnly w (if b = true then v.msix f vec else v) f ∧
      ((if b = true then v.msix f vec else v).mbox f m).rsp = resp ∧
      fld ((if b = true then v.msix f vec else v).mbox f m).stat 2 0 = 3 := by
  intro v b vec
  have hv : HostOnly w v f := hostOnly_modFn w f _
  have e : v.mbox f m = { w.mbox f m with rsp := resp, stat := setFld (w.mbox f m).stat 2 0 3 } := by
    simp only [v, State.mbox, State.modMbx, State.fn_modFn_self, AMap.get_put_self]
  cases b
  · simp only [Bool.false_eq_true, if_false, e, fld_setFld_low, Nat.reduceMod, and_self, and_true]; exact hv
  · simp only [if_true, (msix_keeps v f vec m).2.1, e, fld_setFld_low, Nat.reduceMod, and_self, and_true]
    exact hv.trans (hostOnly_msix v f vec)

/-- The first completion of a ring is written when it is at hand and the ring has room (R431). -/
theorem flush_first (v : State) (f n k id : Nat) (q : Ring) (rest : List Nat) (resp : List Byte)
    (hq : (v.fn f).ring n = q) (ho : q.order = id :: rest) (hh : q.held = [(id, resp)])
    (hr : (q.cqPi + 1) % 2 ^ fld (q.ctlOf n) 23 20 ≠ q.cqCi % 2 ^ fld (q.ctlOf n) 23 20) :
    Out.dma f (q.cqBase.toNat + 64 * q.cqPi) (putAt resp 2 [if q.phase then 0x80 else 0]) ∈
      (State.flushRing f n (k + 1) v).out := by
  have hfind : q.held.find? (fun p => p.1 = id) = some (id, resp) := by simp [hh]
  rw [State.flushRing, hq]
  dsimp only
  rw [ho]
  dsimp only
  rw [hfind]
  dsimp only
  rw [if_neg hr]
  refine (hostTold_flushRing f n k _).2.2 _ ?_
  exact (hostTold_written _ f n _ _ _).2.2 _ (List.mem_cons_self ..)

/-- A response for a ring: it is written when the ring has room and nothing before it waits. -/
theorem ring_answer (w : State) (f n id : Nat) (resp : List Byte) :
    let t := State.flushRing f n 16 (w.modRing f n fun r => { r with held := r.held ++ [(id, resp)] })
    let q := (w.fn f).ring n
    (HostTold w t f ∧ ((∀ id, Config.cqRefused id = false) → HostOnly w t f)) ∧ ∀ rest, q.order = id :: rest → q.held = [] →
      (q.cqPi + 1) % 2 ^ fld (q.ctlOf n) 23 20 ≠ q.cqCi % 2 ^ fld (q.ctlOf n) 23 20 →
      Out.dma f (q.cqBase.toNat + 64 * q.cqPi) (putAt resp 2 [if q.phase then 0x80 else 0]) ∈ t.out := by
  intro t q
  refine ⟨⟨(hostTold_modFn w f _).trans (hostTold_flushRing f n 16 _),
    fun hc => (hostOnly_modFn w f _).trans (hostOnly_flushRing hc f n 16 _)⟩, ?_⟩
  intro rest ho hh hroom
  refine flush_first _ f n 15 id { q with held := [(id, resp)] } rest resp ?_ ho rfl hroom
  simp only [State.modRing, State.fn_modFn_self, Fn.ring, AMap.get_put_self]
  simp only [q, Fn.ring] at hh ⊢
  rw [hh, List.nil_append]

/-- The phase put into a response at its third byte (R424). -/
theorem putAt_response (w : State) (st tag : Nat) (res : List Byte) (x : Byte) :
    putAt (w.response st tag res) 2 [x] =
      toBytes 2 st ++ [x, 0] ++ toBytes 4 tag ++ toBytes 8 w.trn.turn ++ slice res 0 48 := by
  simp [putAt, State.response, toBytes]

/-- The end of the command in a slot, whatever it answers (R424, R426, R431, R441, R451). -/
theorem complete_ends (u : State) (k : Nat) (r : Run) (st : Nat) (res : List Byte) (h : u.via.runs.find k = some r) :
    Ends u (u.complete k st res) k r st res := by
  unfold State.complete
  rw [h]
  dsimp only
  unfold State.deliver
  dsimp only
  generalize hc : (Rec.mk r.cmd.id r.cmd.fn r.cmd.source (numAt r.cmd.bytes 4 4) 3 st (slice res 0 44)) = rc
  generalize hw : ((u.modVia fun v => { v with runs := v.runs.drop k }).modVia fun v =>
    { v with recs := addRec v.recs rc }) = w
  have hv : w.via = { u.via with runs := u.via.runs.drop k, recs := addRec u.via.recs rc } := by subst hw; rfl
  subst hc
  have hr : { w with via := u.via } = u := by subst hw; rfl
  have hf : ∀ f, w.fn f = u.fn f := by subst hw; intro f; rfl
  have ht : w.trn = u.trn := by subst hw; rfl
  have key : ∀ t : State, { t with host := w.host, out := w.out } = w →
      t.via = w.via ∧ { t with via := u.via, host := u.host, out := u.out } = u := by
    intro t h
    refine ⟨?_, ?_⟩
    · rw [← h]
    · rw [← hr]
      rw [← h]
  by_cases hm : r.mute = true
  · rw [if_pos hm]
    exact ⟨hv, (key w rfl).2, fun _ => by subst hw; exact ⟨rfl, rfl⟩, by simp [hm], by simp [hm],
      fun f _ => ⟨by rw [hf]; rfl, fun _ => hf f⟩⟩
  · rw [if_neg hm]
    by_cases hs : r.cmd.source < 64
    · rw [if_pos hs]
      obtain ⟨ha, hb, hc⟩ := mailbox_answer w r.cmd.fn r.cmd.source (w.response st (numAt r.cmd.bytes 4 4) res)
        (bit ((((w.modMbx r.cmd.fn r.cmd.source fun m => { m with
          rsp := w.response st (numAt r.cmd.bytes 4 4) res, stat := setFld m.stat 2 0 3 }).fn r.cmd.fn).mbx.get
            r.cmd.source {}).ctlOf r.cmd.source) 7) (fld ((((w.modMbx r.cmd.fn r.cmd.source fun m => { m with
          rsp := w.response st (numAt r.cmd.bytes 4 4) res, stat := setFld m.stat 2 0 3 }).fn r.cmd.fn).mbx.get
            r.cmd.source {}).ctlOf r.cmd.source) 5 0)
      obtain ⟨k1, k2⟩ := key _ ha.1
      have k3 := fun f hne => (ha.2 f hne).trans (hf f)
      refine ⟨k1.trans hv, k2, fun h => absurd h hm, fun _ _ => ⟨?_, hc⟩, ?_,
        fun f hne => ⟨by rw [k3 f hne]; rfl, fun _ => k3 f hne⟩⟩
      · rw [hb, ← ht]; rfl
      · intro _ n rest h; omega
    · rw [if_neg hs]
      obtain ⟨ha, hb⟩ := ring_answer w r.cmd.fn (r.cmd.source - 64) r.cmd.id (w.response st (numAt r.cmd.bytes 4 4) res)
      obtain ⟨k1, k2⟩ := key _ ha.1.1
      refine ⟨k1.trans hv, k2, fun h => absurd h hm, fun _ h => absurd h hs, ?_, fun f hne => ⟨?_, fun h => ?_⟩⟩
      rotate_left
      · exact hf f ▸ ha.1.2.1 f hne
      · rcases h with h | h | h
        · exact absurd h hm
        · exact absurd h hs
        · exact ((ha.2 h).2 f hne).trans (hf f)
      intro _ n rest hn
      have e : r.cmd.source - 64 = n := by omega
      rw [e] at hb ⊢
      rw [putAt_response, ht, hf] at hb
      exact hb rest

end Sys2Proof.Machine
end

