-- ==== Sys2Proof/Laws/Stack.lean ====
section
/-! SUPPORT. The Curd operand stack with every element in registers: nothing is checked, stored or loaded (R212, R213). -/

namespace Sys2Proof.Machine

@[simp] theorem spillsOf_shallow {d d2 : Nat} (h : d2 ≤ 16) : spillsOf d d2 = [] := by
  simp [spillsOf, Nat.sub_eq_zero_of_le h]

@[simp] theorem fillsOf_shallow {d d2 : Nat} (h : d ≤ 16) : fillsOf d d2 = [] := by
  simp [fillsOf, Nat.sub_eq_zero_of_le h]

/-- An instruction that has its operands and results in registers takes its stack effect with no spill and no fill. -/
theorem InRegisters.stacked {s : State} {e k m : Nat} {v : Env} (h : InRegisters (s.eng e) k m) :
    Stacked s e k m v s [] [] :=
  ⟨h.operands, h.room, s, by rw [spillsOf_shallow h.after]; rfl, by rw [fillsOf_shallow h.before]; rfl⟩

@[simp] theorem State.moved_nil (s : State) (e : Nat) (t : List Tally) : s.moved e t [] [] = .ok s := rfl

end Sys2Proof.Machine
end

