-- ==== Sys2Proof/Tests/Slice0.lean ====
section
/-! SUPPORT. The author's own tests: what WellFormed refuses, worked examples of the spec, and for each statement with
hypotheses a concrete state and operands that meet them. -/

namespace Sys2Proof.Tests

set_option Elab.async false

open Sys2Proof.Machine

/-! ### Small states -/

/-- A bundle of one move and a long immediate (R170, R171): destination, source, OPMOD, immediate. -/
def bun (dst src op : Nat) (imm : Nat := 0) : Bundle :=
  BitVec.ofNat 128 (2 ^ 127 + (dst * 2 ^ 23 + src * 2 ^ 9 + op) * 2 ^ 80 + imm)

/-- A bundle of three moves (R170, R171): destination, source and OPMOD of each. -/
def bun3 (x y z : Nat × Nat × Nat) : Bundle :=
  let w (x : Nat × Nat × Nat) : Nat := x.1 * 2 ^ 23 + x.2.1 * 2 ^ 9 + x.2.2
  BitVec.ofNat 128 (w x * 2 ^ 80 + w y * 2 ^ 40 + w z)

/-- The source of a short immediate 0, and of the long immediate. -/
def short0 : Nat := 0x2000
def longI : Nat := 0x048

/-- A state with engine 0 as given. -/
def one (g : Eng) : State := { engs := [(0, { g with mode := .running, hold := false })] }

/-- Engine 0 in Salvage, its code in local SRAM. -/
def salEng : Eng := { pc := 0x2000, cr := { esw := { salv := true }, sp := 0x1800 } }
def sal : State := one salEng

/-- Engine 0 in Rind outside Salvage: one page of code, and data in the scratch window at offset 0. -/
def rindEng : Eng :=
  { pc := 0x8000, cr := { scrw := 1 }, mem := { itlb := [⟨8, 12, 0x8000, 0x95, 0, 0⟩] } }
def rind : State := one rindEng

/-- Engine 0 in user code: one page of code, and data in the scratch window at offset 0. -/
def userEng : Eng :=
  { pc := 0x8000, cr := { scrw := 1, esw := { priv := false } }, mem := { itlb := [⟨8, 12, 0x8000, 0xB5, 0, 0⟩] } }
def user : State := one userEng

/-- Whether a check passed. -/
def passed {α : Type} : Except Halt α → Bool
  | .ok _ => true
  | .error _ => false

/-- An access passes and does not wait, and what is done with it passes. -/
def does {β : Type} (r : Prep Place) (w : State → Place → Bool) (f : State → Place → Except Halt β) : Bool :=
  match r with
  | (s2, .ok p) => !w s2 p && passed (f s2 p)
  | _ => false

theorem does_spec {β : Type} {r : Prep Place} {w : State → Place → Bool} {f : State → Place → Except Halt β}
    (h : does r w f = true) : ∃ s2 p b, r = (s2, .ok p) ∧ w s2 p = false ∧ f s2 p = .ok b := by
  obtain ⟨s2, r⟩ := r
  cases r with
  | error x => cases h
  | ok p =>
    refine ⟨s2, p, ?_⟩
    revert h
    show (!w s2 p && passed (f s2 p)) = true → _
    cases w s2 p with
    | true => intro h; cases h
    | false =>
      cases f s2 p with
      | error x => intro h; cases h
      | ok b => intro _; exact ⟨b, rfl, rfl, rfl⟩

/-! ### Bundles that issue -/

/-- A state whose engine 0 has instruction bytes at its program address: in local SRAM in Salvage, else in its instruction
cache, at the line of offset 0x8000. -/
def code (s : State) (l : List Byte) : State :=
  s.modEng 0 fun g => { g with mem := { g.mem with
    sram := if g.cr.esw.salv then writeBytes g.mem.sram 0x2000 l else g.mem.sram, icache := [(0x200, l)] } }

/-- A state with a bundle at engine 0's program address, the state after its fetch, and the bundle's first move. -/
def on (s : State) (b : Bundle) : State := code s (toBytes 16 b.toNat)
def fetched (s : State) (b : Bundle) : State := ((on s b).fetch 0 [] 16).1
def move (s : State) (b : Bundle) : Mv := ((fetched s b).moves 0 b).headD ⟨0, 0, 0, none, 0, false⟩

/-- Whether a fetch gives bytes. -/
def gives (r : Except Halt (List Byte)) (f : List Byte → Bool) : Bool :=
  match r with
  | .ok p => f p
  | .error _ => false

theorem gives_spec {r : Prep (List Byte)} {f : List Byte → Bool} (h : gives r.2 f = true) :
    ∃ p, r = (r.1, .ok p) ∧ f p = true := by
  obtain ⟨s, r⟩ := r
  cases r with
  | error x => cases h
  | ok p => exact ⟨p, rfl, h⟩

/-- What Issues asks, as a check. -/
def issues (s : State) (b : Bundle) : Bool :=
  let g := (on s b).eng 0
  g.ready && g.cr.esw.priv && g.amc.isNone && ((fetched s b).eng 0).amc.isNone && g.imp.isNone && !g.owes &&
    gives ((on s b).fetch 0 [] 16).2 (fun p => decide (ofBytes p = b.toNat)) &&
    (decodeCheck b g.cr.esw.bp).isNone && !(fetched s b).stalls 0 b

theorem issues_of {s : State} {b : Bundle} (h : issues s b = true) : Issues (on s b) 0 b {} (fetched s b) := by
  simp only [issues, Bool.and_eq_true, Bool.not_eq_true', Option.isNone_iff_eq_none] at h
  obtain ⟨⟨⟨⟨⟨⟨⟨⟨h1, h2⟩, h3⟩, h3'⟩, h4⟩, h5⟩, h6⟩, h7⟩, h8⟩ := h
  obtain ⟨p, hp, hq⟩ := gives_spec h6
  exact ⟨h1, h2, by decide, .inr ⟨h3, h3'⟩, fun _ => ⟨h5, h4⟩, ⟨p, hp, of_decide_eq_true hq⟩, h7, h8⟩

/-- What Issues and Triggers ask, as a check. -/
def goes (s : State) (b : Bundle) (d : Nat) : Bool :=
  issues s b && isTrig d && decide ((move s b).dst = d) && !(move s b).pairBad (slotsOf b) &&
    decide ((fetched s b).moves 0 b = [move s b])

/-- A bundle issues on engine 0 with one trigger d, with more of its state and move. -/
def Meets (s : State) (b : Bundle) (d : Nat) (P : State → Mv → Prop) : Prop :=
  Issues (on s b) 0 b {} (fetched s b) ∧ Triggers (fetched s b) 0 b (move s b) ∧ (move s b).dst = d ∧
    P (fetched s b) (move s b)

theorem meets_of {s : State} {b : Bundle} {d : Nat} {P : State → Mv → Prop} (h : goes s b d = true)
    (hp : P (fetched s b) (move s b)) : Meets s b d P := by
  simp only [goes, Bool.and_eq_true, Bool.not_eq_true', decide_eq_true_eq] at h
  obtain ⟨⟨⟨⟨h1, h2⟩, h3⟩, h4⟩, h5⟩ := h
  exact ⟨issues_of h1, ⟨by rw [h3]; exact h2, h4, [], [], h5, rfl⟩, h3, hp⟩

/-! ### Statements about bundles -/

/-- Meets for every row of a list, from a check. -/
theorem meets_all {α : Type} {l : List α} {s : α → State} {b : α → Bundle} {d : α → Nat} {P : α → State → Mv → Prop}
    [∀ x u m, Decidable (P x u m)]
    (h : l.all (fun x => goes (s x) (b x) (d x) && decide (P x (fetched (s x) (b x)) (move (s x) (b x)))) = true) :
    ∀ x ∈ l, Meets (s x) (b x) (d x) (P x) := fun x hx => by
  have h := (Bool.and_eq_true _ _).mp (List.all_eq_true.1 h x hx)
  exact meets_of h.1 (of_decide_eq_true h.2)

/-- AluResult: every trigger of both units. -/
theorem wit_alu : ∀ i ∈ (List.range 12).map (0x210 + ·) ++ (List.range 12).map (0x230 + ·),
    Meets sal (bun i short0 0) i fun _ _ => True := meets_all (by decide +kernel)

/-- Move n of a bundle that issues. -/
def nth (s : State) (b : Bundle) (n : Nat) : Mv := ((fetched s b).moves 0 b).getD n ⟨0, 0, 0, none, 0, false⟩

/-- A bundle of two checked moves, to x and y, and a plain one issues. -/
def beside (s : State) (x y : Nat) : Bool :=
  let b := bun3 (x, short0, 0) (y, short0, 0) (0x25, short0, 0)
  let m := nth s b
  issues s b && decide ((fetched s b).moves 0 b = [m 0, m 1, m 2]) && decide ((m 0).dst = x) && decide ((m 1).dst = y) &&
    !(m 0).pairBad (slotsOf b) && !(m 1).pairBad (slotsOf b) && (m 2).plain b

theorem beside_of {s : State} {x y : Nat} (h : beside s x y = true) :
    let b := bun3 (x, short0, 0) (y, short0, 0) (0x25, short0, 0)
    Issues (on s b) 0 b {} (fetched s b) ∧ ∃ m m' z, (fetched s b).moves 0 b = [] ++ m :: [] ++ m' :: [z] ∧ m.dst = x ∧
      m'.dst = y ∧ m.pairBad (slotsOf b) = false ∧ m'.pairBad (slotsOf b) = false ∧ ([] ++ [] ++ [z]).all (·.plain b) = true := by
  simp only [beside, Bool.and_eq_true, Bool.not_eq_true', decide_eq_true_eq] at h
  obtain ⟨⟨⟨⟨⟨⟨h1, h2⟩, h3⟩, h4⟩, h5⟩, h6⟩, h7⟩ := h
  exact ⟨issues_of h1, _, _, _, h2, h3, h4, h5, h6, by simpa using h7⟩

/-- AluResult: a trigger of each unit in one bundle, and reserved OPMOD bits. -/
theorem wit_alu_two : (∀ i ∈ List.range 12, beside sal (0x210 + i) (0x23B - i) = true) ∧
    ∀ d ∈ [0x210, 0x239], ∃ x, (0, x) ∈ slotsOf (bun d short0 16) ∧ x.dst = d ∧ x.op = 16 := by
  refine ⟨by decide +kernel, fun d hd => ?_⟩
  rcases List.mem_cons.1 hd with rfl | hd
  · exact ⟨⟨0, 0x210, short0, 16⟩, by decide +kernel, rfl, rfl⟩
  · cases List.mem_singleton.1 hd
    exact ⟨⟨0, 0x239, short0, 16⟩, by decide +kernel, rfl, rfl⟩

/-- Nothing is due before an exception of a bundle or instruction (Raises). -/
abbrev Calm (s : State) : Prop :=
  ((s.longDone 0).eng 0).amc = none ∧ ((s.longDone 0).eng 0).imp = none ∧ (s.longDone 0).irq 0 = none

/-- The engine of rind with every condition enabled, delivered precisely, and every trap. -/
def strict : State := one { rindEng with cr := { rindEng.cr with esw := { pr := true, dfte := 31 } } }

/-- The triggers of DecimalResult. -/
def decTrigs : List Nat := [0x250, 0x251, 0x252, 0x253, 0x254, 0x255, 0x256, 0x270, 0x2D0, 0x2D1, 0x2D3, 0x2F0, 0x2F1, 0x2F2]

/-- DecimalResult: every trigger, on the tally +0; no patch is in force, so that a conversion takes the words of the mask
ROM, which the model holds to be good where none fails (log 19); the engine delivers no precise condition. -/
theorem wit_decimal : ∀ d ∈ decTrigs, Meets rind (bun d longI 0 0xC) d fun s1 m =>
      (m.dst = 0x2D3 → m.op % 2 = 1 → m.pair = true) ∧ (m.dst / 16 = 0x2D → s1.rnFault 0 {} m.dst m.op = none) ∧
      (s1.esw 0).precise = false := meets_all (by decide +kernel)

/-- DecimalResult: a condition that is enabled and precise: no tally as operand. -/
theorem wit_decimal_raises : ∀ d ∈ [0x250, 0x270, 0x2D1, 0x2F0], Meets strict (bun d longI 0) d fun s1 m =>
      ((if d = 0x250 then daAdd 0 (m.val.setWidth 96) m.op else if d = 0x270 then dmMul 0 (m.val.setWidth 96) m.op 0
        else if d = 0x2D1 then cvD2b (m.val.setWidth 96) m.op else ckOp 0 (m.val.setWidth 96) m.op).cond = some .data) ∧
      (s1.esw 0).enabled .data = true ∧ (s1.esw 0).precise = true ∧ s1.rnFault 0 {} m.dst m.op = none ∧ Calm s1 :=
  meets_all (by decide +kernel)

/-- The OPMOD of each DF trigger in the witnesses: narrow takes a pair. -/
def dfOpOf (i : Nat) : Nat := if i = 13 then 1 else 0

/-- FloatResult and Divides: every DF trigger, on the pair of T0 and T1, and CV.t.t2f. -/
theorem wit_float : (∀ i ∈ List.range 14, Meets rind (bun (0x2B0 + i) 0x20 (dfOpOf i)) (0x2B0 + i) fun s1 m =>
      let q := s1.latched 0 (bun (0x2B0 + i) 0x20 (dfOpOf i))
      dfPairBad i m.op q.dfo q.dfo2 (latchOf m.val m.pair) = false ∧ (s1.esw 0).dfte = 0) ∧
    ∀ d ∈ [0x2D2], Meets rind (bun d longI 0 0x1C) d fun s1 m =>
      s1.rnFault 0 {} m.dst m.op = none ∧ (cvT2f (m.val.setWidth 96) m.op (s1.esw 0).dfrnd.toNat).1 = none ∧ (s1.esw 0).dfte = 0 :=
  ⟨meets_all (by decide +kernel), meets_all (by decide +kernel)⟩

/-- FloatResult: a division of 0 by 0 and a t2f that rounds, with every trap enabled and with one of another flag. -/
theorem wit_float_traps : ∀ x ∈ [(31 : BitVec 5), 2],
    (∀ d ∈ [0x2B3], Meets (one { rindEng with cr := { rindEng.cr with esw := { dfte := x } } }) (bun d 0x20 0) d fun s1 m =>
      let q := s1.latched 0 (bun d 0x20 0)
      let r := dfOp 3 m.op (s1.esw 0).dfrnd q.dfo q.dfo2 (latchOf m.val m.pair)
      dfPairBad 3 m.op q.dfo q.dfo2 (latchOf m.val m.pair) = false ∧ (s1.esw 0).dfte ≠ 0 ∧
      s1.rnFault 0 {} m.dst m.op = none ∧ decide ((s1.esw 0).dfte.toNat &&& r.flags ≠ 0) = decide (x = 31) ∧ Calm s1) ∧
    ∀ d ∈ [0x2D2], Meets (one { rindEng with cr := { rindEng.cr with esw := { dfte := x } } })
      (bun d longI 0 0x9999999999999999999C) d fun s1 m =>
      let r := cvT2f (m.val.setWidth 96) m.op (s1.esw 0).dfrnd.toNat
      s1.rnFault 0 {} m.dst m.op = none ∧ r.1 = none ∧
      decide ((s1.esw 0).dfte.toNat &&& r.2.2 ≠ 0) = decide (x = 31) ∧ Calm s1 := fun x hx => by
  rcases List.mem_cons.1 hx with rfl | hx
  · exact ⟨meets_all (by decide +kernel), meets_all (by decide +kernel)⟩
  · cases List.mem_singleton.1 hx
    exact ⟨meets_all (by decide +kernel), meets_all (by decide +kernel)⟩

/-- A divide of each unit that runs. -/
def dividing : State := one { rindEng with
  dd := some ⟨0x7C, 0x2C, 0, 0, 0, 0, false, 3, false⟩, df := some ⟨{}, {}, 0, 0, false⟩ }

/-- Divides: a decimal divide whose condition is enabled and precise. -/
theorem wit_divides_raises : ∀ d ∈ [0x290], Meets strict (bun d longI 0) d fun s1 m =>
    (s1.eng 0).cr.esw.priv = true ∧ (ddDiv 0 (m.val.setWidth 96) (m.op % 2 ^ 9) 0).cond = some .data ∧
      (s1.esw 0).enabled .data = true ∧ (s1.esw 0).precise = true ∧ Calm s1 := meets_all (by decide +kernel)

/-- Divides: the start of a decimal divide, by 0, and the ends of both divides. -/
theorem wit_divides :
    (∀ d ∈ [0x290], Meets rind (bun d longI 0 0xC) d fun s1 _ =>
      (s1.eng 0).cr.esw.priv = true ∧ (s1.esw 0).precise = false) ∧
    (∃ d, (dividing.eng 0).dd = some d) ∧
    ∃ d, (dividing.eng 0).df = some d ∧ dividing.rnFault 0 {} 0x2B3 d.opmod.toNat = none :=
  ⟨meets_all (by decide +kernel), ⟨_, rfl⟩, ⟨_, rfl, by decide +kernel⟩⟩

/-- The engine of rind with a length in SCNT and a state in SAUX. -/
def strState (scnt : BitVec 32) (saux : W64) : State :=
  one { rindEng with cr := { rindEng.cr with scnt := scnt, saux := saux } }

/-- Whether no microword fails. -/
def goesOn : MicroOut → Bool
  | .fail _ _ _ => false
  | _ => true

theorem goesOn_spec {o : MicroOut} (h : goesOn o = true) : ∀ sub ea n, o ≠ .fail sub ea n := by
  rintro sub ea n rfl
  cases h

/-- The string-class triggers, each with a SCNT that it can start with. -/
def strRows : List (Nat × BitVec 32) :=
  [(0x310, 5), (0x311, 5), (0x312, 5), (0x313, 5), (0x314, 5), (0x330, 0), (0x2D4, 0x505), (0x2D5, 0x505), (0x2D6, 0x505)]

/-- StringStart: each trigger starts, each resumes, and each of ST completes at once. -/
theorem wit_strings :
    (∀ r ∈ strRows, Meets (strState r.2 0) (bun r.1 short0 0) r.1 fun s1 m =>
      strBad (s1.eng 0).cr m.dst = false ∧ (s1.eng 0).cr.ip = false ∧ strReady (s1.eng 0).cr m.dst = false) ∧
    (∀ r ∈ strRows, Meets (strState r.2 (BitVec.ofNat 64 (2 ^ 63))) (bun r.1 short0 0) r.1 fun s1 m =>
      (s1.eng 0).cr.ip = true ∧ strReady (s1.eng 0).cr m.dst = false) ∧
    ∀ d ∈ [0x310, 0x311, 0x312, 0x313, 0x314], Meets (strState 0 0) (bun d short0 0) d fun s1 m =>
      let run : StrRun := {
        insn := .rind (bun d short0 0), port := BitVec.ofNat 12 m.dst, opmod := BitVec.ofNat 9 m.op,
        vals := valsOf (s1.moves 0 (bun d short0 0)), micro := { at_ := rnEntry m.dst m.op false } }
      strBad (s1.eng 0).cr m.dst = false ∧ strReady (s1.eng 0).cr m.dst = true ∧
      goesOn ((s1.modEng 0 fun g => { g with
        cr := (s1.eng 0).cr.strStart m.dst, seen := s1.modeAt 0, str := some run }).rnIter 0 {} run) = true :=
  ⟨meets_all (by decide +kernel), meets_all (by decide +kernel), meets_all (by decide +kernel)⟩

/-- Branches: near and far jumps; calls and returns on the Salvage stack, and on a stack in the scratch window. -/
theorem wit_branches :
    (∀ d ∈ [0x390, 0x391], Meets sal (bun d longI 0 0x2000) d fun s1 m =>
      targetBad (s1.eng 0).cr.esw.salv (m.val.toNat % 2 ^ 32) = false ∧ (s1.eng 0).cr.esw.salv = true ∧
      0x1000 ≤ ((s1.eng 0).cr.sp - 8).toNat ∧ ((s1.eng 0).cr.sp - 8).toNat + 8 ≤ 0x2000) ∧
    (∀ d ∈ [0x393], Meets rind (bun d longI 0 0x8100) d fun s1 m =>
      (s1.eng 0).cr.esw.salv = false ∧ m.val.toNat % 16 = 0) ∧
    ∀ d ∈ [0x392], Meets (one { salEng with mem := { sram := [(0x1806, 0x20)] } }) (bun d short0 0) d fun s1 _ =>
      let r := readBytes (s1.eng 0).mem.sram (s1.eng 0).cr.sp.toNat 8
      (s1.eng 0).cr.esw.salv = true ∧ 0x1000 ≤ (s1.eng 0).cr.sp.toNat ∧ (s1.eng 0).cr.sp.toNat + 8 ≤ 0x2000 ∧
      numAt r 0 2 = 0 ∧ targetBad true (numAt r 4 4) = false :=
  ⟨meets_all (by decide +kernel), meets_all (by decide +kernel), meets_all (by decide +kernel)⟩

/-- Engine 0 in Rind with a stack in the scratch window that holds a return record for 0x8100. -/
def stack : State := one { rindEng with
  cr := { rindEng.cr with sp := 0x1000 }
  mem := { rindEng.mem with scratch := [(0x1006, 0x81)] } }

theorem wit_branches_stack :
    (∀ d ∈ [0x391, 0x394], Meets stack (bun d longI 0 0x8100) d fun s1 m => targetBad false (m.val.toNat % 2 ^ 32) = false ∧
      (s1.eng 0).cr.esw.salv = false ∧ does
        (s1.access 0 [] (s1.ctx 0) .store (s1.eng 0).cr.esw.sb.toNat ((s1.eng 0).cr.sp - 8).toNat 8 1) (fun _ _ => false)
        (fun s2 pl => (s2.begun 0 (s1.moves 0 (bun d longI 0 0x8100))).store 0 pl
          (toBytes 8 (ofBytes (retRecord (s1.eng 0).cr.esw.cb.toNat ((s1.eng 0).pc + 32).toNat)))) = true) ∧
    Meets stack (bun 0x392 short0 0) 0x392 fun s1 _ => (s1.eng 0).cr.esw.salv = false ∧ ∃ s2 pl r s3,
      s1.access 0 [] (s1.ctx 0) .load (s1.eng 0).cr.esw.sb.toNat (s1.eng 0).cr.sp.toNat 8 1 = (s2, .ok pl) ∧
      s2.waits 0 {} pl = false ∧ (s2.load 0 pl 8).map Prod.snd = .ok r ∧ numAt r 0 2 = 0 ∧
      targetBad false (numAt r 4 4) = false ∧
      (s2.begun 0 (s1.moves 0 (bun 0x392 short0 0))).load 0 pl 8 = .ok s3 :=
  ⟨meets_all (by decide +kernel),
    meets_of (by decide +kernel) ⟨by decide +kernel, _, .scratch 0x1000, _, _, rfl, by decide +kernel, rfl, by decide +kernel,
      by decide +kernel, rfl⟩⟩

/-- The loads and stores of both units: offset of the port, bytes, alignment. -/
def lsRows : List (Nat × Nat × Nat) := [(0, 1, 1), (1, 2, 2), (2, 4, 4), (3, 8, 8), (4, 12, 4)]

/-- What LoadStore asks of the access of a load, and of a store, of n bytes. -/
def loadGoes (b : Bundle) (n align : Nat) (s1 : State) (m : Mv) : Bool :=
  does (s1.access 0 [] (s1.ctx 0) .load ((s1.eng 0).b.getD (m.op % 8) 0).toNat
      ((m.val.toNat % 2 ^ 32 + 4 * (m.op / 8)) % 2 ^ 32) n align) (fun s2 pl => s2.waits 0 {} pl)
    (fun s2 pl => (s2.begun 0 (s1.moves 0 b)).load 0 pl n)
def storeGoes (b : Bundle) (n align : Nat) (s1 : State) (m : Mv) : Bool :=
  does (s1.access 0 [] (s1.ctx 0) .store ((s1.eng 0).b.getD (m.op % 8) 0).toNat
      ((m.val.toNat % 2 ^ 32 + 4 * (m.op / 8)) % 2 ^ 32) n align) (fun _ _ => false)
    (fun s2 pl => (s2.begun 0 (s1.moves 0 b)).store 0 pl
      (toBytes n ((if m.dst < 0x370 then (s1.latched 0 b).ls0o else (s1.latched 0 b).ls1o).toNat % 2 ^ (8 * n))))

/-- LoadStore: every row on both units, in the scratch window. -/
theorem wit_loads : ∀ x ∈ lsRows.map (0x350, ·) ++ lsRows.map (0x370, ·),
    Meets rind (bun (x.1 + x.2.1) short0 0) (x.1 + x.2.1) fun s1 m =>
      loadGoes (bun (x.1 + x.2.1) short0 0) x.2.2.1 x.2.2.2 s1 m = true := meets_all (by decide +kernel)

theorem wit_stores : ∀ x ∈ lsRows.map (0x358, ·) ++ lsRows.map (0x378, ·),
    Meets rind (bun (x.1 + x.2.1) short0 0) (x.1 + x.2.1) fun s1 m =>
      storeGoes (bun (x.1 + x.2.1) short0 0) x.2.2.1 x.2.2.2 s1 m = true := meets_all (by decide +kernel)

/-- StoreVisible: a store in scratch, and one in plain memory. -/
theorem wit_store_visible : (∃ s', rind.store 0 (.scratch 8) [1, 2] = .ok s') ∧
    ∃ (p : Part) (s' : State), p.idx = 0 ∧ p.len = [(1 : Byte), 2].length ∧ bit p.leaf 9 = false ∧
      rind.store 0 (.parts [p]) [1, 2] = .ok s' :=
  ⟨⟨_, rfl⟩, ⟨0, 2, 0x9000, 0x9000, 0x18D⟩, _, rfl, rfl, by decide, rfl⟩

/-- ReturnFromException: from the Salvage TSB, and from a TSB in the scratch window. -/
def tsb : State := one { rindEng with cr := { rindEng.cr with tsbr := 1 } }

/-- An access whose every byte lies in the scratch window. -/
theorem access_scratch {s : State} {c : Ctx} {acc : Acc} {bank off n align : Nat} (h1 : off % align = 0) (h2 : acc ≠ .fetch)
    (h3 : ∀ i, i < n → inScratch (s.eng 0).cr.scrw bank (off + i) = true) :
    s.access 0 [] c acc bank off n align = (s, .ok (.scratch (off % 2 ^ 14))) := by
  have hf : ((List.range n).filter fun i => inScratch (s.eng 0).cr.scrw bank (off + i)) = List.range n :=
    List.filter_eq_self.2 fun i hi => h3 i (List.mem_range.1 hi)
  simp [State.access, h1, h2, hf]

/-- The state in which a RETX of engine 0 reads its TSB. -/
def atRetx (s1 : State) : State :=
  ((s1.begun 0 (s1.moves 0 (bun 0x395 short0 0))).counted 0).syncEvent 0

theorem wit_retx :
    (∀ d ∈ [0x395], Meets sal (bun d short0 0) d fun s1 _ =>
      let c := ((atRetx s1).eng 0).cr
      let img := readBytes ((atRetx s1).eng 0).mem.sram 0 512
      let w : W64 := BitVec.ofNat 64 (numAt img 0 8)
      let cause : W64 := BitVec.ofNat 64 (numAt img 0x18 8)
      let osp := numAt img 0x34 4 / 4 * 4
      c.esw.salv = true ∧ eswBad w = false ∧ bit cause 43 = false ∧ bit cause 42 = false ∧ bit w 10 = false ∧
      bit w 9 = false ∧ bit cause 47 = false ∧ bit cause 46 = false ∧ c.oslo.toNat ≤ osp ∧ osp ≤ c.oshi.toNat ∧
      (osp - c.oslo.toNat) % 12 = 0) ∧
    Meets tsb (bun 0x395 short0 0) 0x395 (fun s1 _ =>
      let u := atRetx s1
      let c := (u.eng 0).cr
      c.esw.salv = false ∧ bit c.tsbr 0 = true ∧ ∃ s3 pl s4,
        u.access 0 [] (u.supCtx 0) .load (fld c.tsbr 47 32) (tsbOff c.tsbr) 512 1 = (s3, .ok pl) ∧
        s3.load 0 pl 512 = .ok s4) := by
  refine ⟨meets_all (by decide +kernel), meets_of (by decide +kernel) ⟨by decide +kernel, by decide +kernel, ?_⟩⟩
  refine ⟨_, .scratch 0, _, access_scratch (by decide +kernel) (by decide) fun i hi => ?_, rfl⟩
  have : (0 + i) % 2 ^ 32 / 2 ^ 14 = 0 := by omega
  show (true && true && decide ((0 + i) % 2 ^ 32 / 2 ^ 14 = 0)) = true
  simp only [this, decide_true, Bool.and_self]

/-- TsbRoundTrip. -/
theorem wit_tsb_round_trip :
    let g := rind.eng 0
    g.t.length = 32 ∧ g.b.length = 8 ∧ g.p.getLsbD 0 = true ∧ rind.prForced 0 = false ∧
      ({ exc := { cls := 0x16 } } : Entry).ilen < 256 ∧ g.cr.sp.toNat % 4 = 0 ∧ g.cr.osp.toNat % 4 = 0 ∧
      g.cr.ls.toNat % 16 = 0 ∧ g.cr.le.toNat % 16 = 0 := by decide

/-- RepeatStart: counts 0 and 3, and a body of one bundle of zeros. -/
theorem wit_repeat : ∀ n ∈ [0, 3], Meets sal (bun 0x3B0 longI 0 n) 0x3B0 fun s1 m => (s1.eng 0).cr.esw.la = false ∧
    m.val.toNat % 2 ^ 32 = n ∧
    (match State.fetchBody 0 [] (m.op % 64 + 1) ((s1.eng 0).pc + 16).toNat s1 with
      | (_, .ok body) => bodyBad body
      | _ => true) = false := meets_all (by decide +kernel)

/-- Transactions: the waits outside a transaction; a seal and a yield inside one. -/
def tx : State := one { rindEng with
  cr := { rindEng.cr with esw := { tx := 1 } }
  att := some ⟨5, false, false, false, 1, 0, 0, 0, 20, [], { resume := 0, esw := {}, peekOnly := false }⟩ }

theorem wit_transactions :
    (∀ d ∈ [0x3D0, 0x3D1], Meets rind (bun d short0 0) d fun s1 m => (s1.eng 0).cr.esw.tx = 0 ∧ m.val.toNat % 16 = 0) ∧
    (∀ d ∈ [0x3D2], Meets tx (bun d longI 0 (1408 * 2 ^ 32 + 14976)) d fun s1 m => (s1.eng 0).cr.esw.tx ≠ 0 ∧
      m.val.toNat % 2 ^ 64 / 2 ^ 43 = 0 ∧ m.val.toNat % 2 ^ 32 / 2 ^ 14 = 0 ∧ m.val.toNat / 2 ^ 32 % 2 ^ 11 ≤ 1408 ∧
      m.val.toNat % 2 ^ 14 + m.val.toNat / 2 ^ 32 % 2 ^ 11 ≤ 16384) ∧
    ∀ d ∈ [0x3D3], Meets tx (bun d short0 0) d fun s1 _ => (s1.eng 0).cr.esw.tx = 1 :=
  ⟨meets_all (by decide +kernel), meets_all (by decide +kernel), meets_all (by decide +kernel)⟩

/-- Synchronises. -/
theorem wit_sync : ∀ d ∈ [0x3F0, 0x3F1, 0x3F2], Meets rind (bun d short0 0) d fun s1 _ =>
    (s1.eng 0).dd = none ∧ (s1.eng 0).df = none := meets_all (by decide +kernel)

/-- PlainMoves: a move to T5, also in a delay bundle. -/
theorem wit_plain : ∀ g ∈ [rindEng, { rindEng with bt := 0x8100, cr := { rindEng.cr with esw := { bp := true } } }],
    let b := bun 0x25 short0 0
    let s1 := fetched (one g) b
    Issues (on (one g) b) 0 b {} s1 ∧ (s1.moves 0 b).all (·.plain b) = true ∧ s1.moves 0 b = [move (one g) b] ∧
    isT (move (one g) b).dst = true ∧ (move (one g) b).pair = false ∧ (s1.eng 0).t.length = 32 :=
  have h : ∀ g ∈ [rindEng, { rindEng with bt := 0x8100, cr := { rindEng.cr with esw := { bp := true } } }],
    let b := bun 0x25 short0 0
    let s1 := fetched (one g) b
    issues (one g) b = true ∧ (s1.moves 0 b).all (·.plain b) = true ∧ s1.moves 0 b = [move (one g) b] ∧
    isT (move (one g) b).dst = true ∧ (move (one g) b).pair = false ∧ (s1.eng 0).t.length = 32 := by decide +kernel
  fun g hg => ⟨issues_of (h g hg).1, (h g hg).2⟩

/-- ControlWrite: XVEC (pending), SP (at once), and AFLAG in a transaction. -/
theorem wit_control : ∀ x ∈ [(rind, 0x102), (rind, 0x105), (tx, 0x110)],
    let b := bun x.2 short0 0
    let s1 := fetched x.1 b
    Issues (on x.1 b) 0 b {} s1 ∧ s1.moves 0 b = [move x.1 b] ∧ isCr (move x.1 b).dst = true ∧
    (move x.1 b).pairBad (slotsOf b) = false ∧ s1.crCheck 0 (x.2 - 0x100) ((move x.1 b).val.setWidth 64) = none :=
  have h : ∀ x ∈ [(rind, 0x102), (rind, 0x105), (tx, 0x110)],
    let b := bun x.2 short0 0
    let s1 := fetched x.1 b
    issues x.1 b = true ∧ s1.moves 0 b = [move x.1 b] ∧ isCr (move x.1 b).dst = true ∧
    (move x.1 b).pairBad (slotsOf b) = false ∧ s1.crCheck 0 (x.2 - 0x100) ((move x.1 b).val.setWidth 64) = none := by
    decide +kernel
  fun x hx => ⟨issues_of (h x hx).1, (h x hx).2⟩

/-- ControlWrite: the same three beside an ALU trigger, in either order. -/
theorem wit_control_beside : ∀ x ∈ [(rind, 0x102), (rind, 0x105), (tx, 0x110)],
    beside x.1 0x210 x.2 = true ∧ beside x.1 x.2 0x239 = true ∧ (fetched x.1 (bun3 (0x210, short0, 0) (x.2, short0, 0) (0x25, short0, 0))).crCheck
      0 (x.2 - 0x100) 0 = none := by decide +kernel

/-- TallyValues and ProductsQuotients: valid tallies, a sum of 10^22 and one of 10^23 at the bound of 23 digits, a divisor
of 0 and one that is not. -/
theorem wit_tallies :
    tOk 0x1C = true ∧ tOk 0xC = true ∧ tOk 0x99999999999999999999999C = true ∧ tOk 0x99999999999999999999999D = true ∧
    (tVal 0x09999999999999999999999C + tVal 0x1C).natAbs = 10 ^ 22 ∧
    (tVal 0x99999999999999999999999C + tVal 0x1C).natAbs = 10 ^ 23 ∧ tVal 0xC = 0 ∧ tVal 0x1C ≠ 0 := by decide

/-! ### Statements about Curd instructions -/

/-- A state with a Curd instruction at engine 0's program address, and the state after its fetch. -/
def curdOn (s : State) (op imm : Nat) (rep : Bool) : State := code s (curdBytes op imm rep)
def curdFetched (s : State) (op imm : Nat) (rep : Bool) : State :=
  let s := curdOn s op imm rep
  ((s.fetchAt 0 [] (s.eng 0).pc.toNat (1 + rep.toNat)).1.fetchAt 0 [] (s.eng 0).pc.toNat ((curdLen op).getD 1 + rep.toNat)).1

/-- What CurdReady asks, as a check. -/
def curdGoes (s0 : State) (op imm : Nat) (rep : Bool) : Bool :=
  let s := curdOn s0 op imm rep
  let g := s.eng 0
  let r := s.fetchAt 0 [] g.pc.toNat (1 + rep.toNat)
  g.ready && !g.cr.esw.priv && g.amc.isNone && ((curdFetched s0 op imm rep).eng 0).amc.isNone && g.imp.isNone &&
    (curdLen op).isSome &&
    gives r.2 (fun p => decide (p = (curdBytes op imm rep).take (1 + rep.toNat))) &&
    gives (r.1.fetchAt 0 [] g.pc.toNat ((curdLen op).getD 1 + rep.toNat)).2 (fun q => (curdBytes op imm rep).isPrefixOf q) &&
    !curdReserved op (if rep then repImm op imm else imm)

theorem curdReady_of {s : State} {op imm : Nat} {rep : Bool} (h : curdGoes s op imm rep = true) :
    CurdReady (curdOn s op imm rep) 0 {} op imm rep (curdFetched s op imm rep) := by
  simp only [curdGoes, Bool.and_eq_true, Bool.not_eq_true', Option.isNone_iff_eq_none] at h
  obtain ⟨⟨⟨⟨⟨⟨⟨⟨h1, h2⟩, h3⟩, h3'⟩, h4⟩, h5⟩, h6⟩, h7⟩, h8⟩ := h
  obtain ⟨p, hp, hp'⟩ := gives_spec h6
  obtain ⟨q, hq, hq'⟩ := gives_spec h7
  exact ⟨h1, h2, by decide, ⟨h3, h3', h4⟩, h5, ⟨_, p, q, hp, of_decide_eq_true hp', hq, hq'⟩, h8⟩

/-- What InRegisters asks, as a check. -/
def fits (g : Eng) (k m : Nat) : Bool :=
  decide (k ≤ g.cr.depth) && decide (g.cr.depth - k + m ≤ g.cr.capacity) && decide (g.cr.depth ≤ 16) &&
    decide (g.cr.depth - k + m ≤ 16)

theorem inRegisters_of {g : Eng} {k m : Nat} (h : fits g k m = true) : InRegisters g k m := by
  simp only [fits, Bool.and_eq_true, decide_eq_true_eq] at h
  exact ⟨h.1.1.1, h.1.1.2, h.1.2, h.2⟩

/-- Engine 0 in user code with d elements on its stack of 24, each the tally +1, the spill region at 0x2000. -/
def deep (d : Nat) : Eng :=
  { userEng with
    t := List.replicate 32 0x1C
    cr := { userEng.cr with oslo := 0x2000, oshi := 0x2120, osp := BitVec.ofNat 32 (0x2000 + 12 * d), sp := 0x1000 } }
def cs : State := one (deep 8)

/-- CurdReady, InRegisters and Stacked for an instruction that pops k elements and pushes m, with more of the state after its
fetch, which is the one after its checks too. -/
def Runs (s : State) (op imm k m : Nat) (P : State → Prop) : Prop :=
  CurdReady (curdOn s op imm false) 0 {} op imm false (curdFetched s op imm false) ∧
    InRegisters ((curdFetched s op imm false).eng 0) k m ∧
    Stacked (curdFetched s op imm false) 0 k m {} (curdFetched s op imm false) [] [] ∧ P (curdFetched s op imm false)

theorem runs_all {α : Type} {l : List α} {s : α → State} {op imm k m : α → Nat} {P : α → State → Prop}
    [∀ x u, Decidable (P x u)]
    (h : l.all (fun x => curdGoes (s x) (op x) (imm x) false && fits ((curdFetched (s x) (op x) (imm x) false).eng 0) (k x) (m x) &&
      decide (P x (curdFetched (s x) (op x) (imm x) false))) = true) :
    ∀ x ∈ l, Runs (s x) (op x) (imm x) (k x) (m x) (P x) := fun x hx => by
  have h := (Bool.and_eq_true _ _).mp (List.all_eq_true.1 h x hx)
  have h' := (Bool.and_eq_true _ _).mp h.1
  exact ⟨curdReady_of h'.1, inRegisters_of h'.2, (inRegisters_of h'.2).stacked, of_decide_eq_true h.2⟩

/-- CurdStack, first and second part: opcode, elements popped and pushed. -/
def stackRows : List (Nat × Nat × Nat) :=
  [(0x00, 0, 0), (0x01, 1, 0), (0x02, 1, 2), (0x03, 2, 2), (0x04, 2, 3), (0x05, 3, 3), (0x06, 0, 1), (0x07, 0, 1), (0x10, 0, 1),
    (0x11, 0, 1), (0x12, 0, 1), (0x17, 1, 1), (0x70, 0, 1), (0x72, 0, 1), (0x74, 0, 1), (0x76, 0, 1), (0x13, 0, 1), (0x71, 1, 0),
    (0x73, 1, 0), (0x75, 1, 0), (0x2F, 0, 0)]

/-- Its further conditions: PICK 0, and RDFLAG with no divide. -/
theorem wit_curd_stack : ∀ r ∈ stackRows, Runs cs r.1 0 r.2.1 r.2.2 fun s1 =>
    0 % 16 < (s1.eng 0).cr.depth ∧ (s1.eng 0).dd = none ∧ (s1.eng 0).df = none := runs_all (by decide +kernel)

/-- WDRND, WDFRND and CLRFLAG of the element 0, and LIT of bytes in the page. -/
theorem wit_curd_stack_more :
    (∀ op ∈ [0x71, 0x73, 0x75], Runs (one { deep 8 with t := List.replicate 32 0 }) op 0 1 0 fun s1 =>
      let w := lo64 (((s1.eng 0).popped (s1.eng 0).cr.depth 1).getD 0 0)
      w.toNat < 5 ∧ w &&& BitVec.ofNat 64 (2 ^ 64 - 1 - 0x71F) = 0) ∧
    ∀ op ∈ [0x13], Runs cs op 0x20 0 1 fun s1 =>
      gives (s1.fetchAt 0 [] (offAdd (s1.eng 0).pc.toNat 0x20) 12).2 (fun _ => true) = true :=
  ⟨runs_all (by decide +kernel), runs_all (by decide +kernel)⟩

/-- What Stacked asks, with loads that do not wait and moves that pass, as a check. -/
def stackGoes (s1 : State) (k m : Nat) : Bool :=
  let d := (s1.eng 0).cr.depth
  decide (k ≤ d) && decide (d - k + m ≤ (s1.eng 0).cr.capacity) &&
    match State.checkSlots 0 [] .store (spillsOf d (d - k + m)) s1 with
    | (u, .ok sp) => match State.checkSlots 0 [] .load (fillsOf d (d - k + m)) u with
      | (s2, .ok fl) => !(fl.any fun p => s2.waits 0 {} p.2) && passed (s2.moved 0 (s2.eng 0).t sp fl) &&
        (sp.length != 0 || fl.length != 0)
      | _ => false
    | _ => false

theorem stackGoes_spec {s1 : State} {k m : Nat} (h : stackGoes s1 k m = true) : ∃ s2 sp fl s4, Stacked s1 0 k m {} s2 sp fl ∧
    (fl.any fun p => s2.waits 0 {} p.2) = false ∧ s2.moved 0 (s2.eng 0).t sp fl = .ok s4 ∧ (sp.length ≠ 0 ∨ fl.length ≠ 0) := by
  unfold stackGoes at h
  simp only [Bool.and_eq_true, decide_eq_true_eq] at h
  obtain ⟨⟨h1, h2⟩, h⟩ := h
  split at h
  · rename_i u sp hu
    split at h
    · rename_i s2 fl hs
      simp only [Bool.and_eq_true, Bool.not_eq_true', Bool.or_eq_true, bne_iff_ne] at h
      obtain ⟨⟨h3, h4⟩, h5⟩ := h
      cases h6 : s2.moved 0 (s2.eng 0).t sp fl with
      | error x => rw [h6] at h4; cases h4
      | ok s4 => exact ⟨s2, sp, fl, s4, ⟨h1, h2, u, hu, hs⟩, h3, h6, h5⟩
    · cases h
  · cases h

/-- CurdStack and the statements that name Stacked: an element that leaves the registers, and one or two that return: opcode,
elements on the stack, popped and pushed. -/
def deepRows : List (Nat × Nat × Nat × Nat) :=
  [(0x07, 16, 0, 1), (0x02, 17, 1, 2), (0x01, 17, 1, 0), (0x30, 17, 2, 1), (0x62, 17, 1, 0),
    (0x65, 18, 1, 0), (0x40, 17, 2, 1), (0x80, 17, 2, 1), (0x84, 18, 3, 1), (0x2D, 16, 0, 1), (0x28, 18, 2, 0)]

theorem wit_curd_spill : ∀ r ∈ deepRows,
    CurdReady (curdOn (one (deep r.2.1)) r.1 0 false) 0 {} r.1 0 false (curdFetched (one (deep r.2.1)) r.1 0 false) ∧
      ∃ s2 sp fl s4, Stacked (curdFetched (one (deep r.2.1)) r.1 0 false) 0 r.2.2.1 r.2.2.2 {} s2 sp fl ∧
        (fl.any fun p => s2.waits 0 {} p.2) = false ∧ s2.moved 0 (s2.eng 0).t sp fl = .ok s4 ∧
        (sp.length ≠ 0 ∨ fl.length ≠ 0) := fun r hr => by
  have h : ∀ r ∈ deepRows, curdGoes (one (deep r.2.1)) r.1 0 false = true ∧
    stackGoes (curdFetched (one (deep r.2.1)) r.1 0 false) r.2.2.1 r.2.2.2 = true := by decide +kernel
  exact ⟨curdReady_of (h r hr).1, stackGoes_spec (h r hr).2⟩

/-- CurdControl and CurdAlu: opcode and elements popped and pushed. -/
theorem wit_curd_control : ∀ r ∈ [(0x60, 0, 0), (0x61, 0, 0), (0x62, 1, 0), (0x63, 1, 0), (0x67, 1, 0), (0x64, 0, 0), (0x65, 1, 0),
      (0x68, 0, 0), (0x66, 0, 0)], Runs cs r.1 0 r.2.1 r.2.2 fun _ => True := runs_all (by decide +kernel)

theorem wit_curd_alu : ∀ i ∈ List.range 12, Runs cs (0x30 + i) 0 2 1 fun _ => True := runs_all (by decide +kernel)

/-- The stack accesses of CurdControl's calls and of RET, on a stack of zeros in the scratch window. -/
theorem wit_curd_calls :
    (∀ op ∈ [0x64, 0x65, 0x68],
      let s1 := curdFetched cs op 0 false
      let g := s1.eng 0
      does (s1.access 0 [] (s1.ctx 0) .store g.cr.esw.sb.toNat (g.cr.sp - 8).toNat 8 1) (fun _ _ => false) (fun s2 pl => s2.store 0 pl
        (retRecord g.cr.esw.cb.toNat (g.pc + BitVec.ofNat 32 ((curdLen op).getD 1)).toNat)) = true) ∧
    (let s1 := curdFetched cs 0x66 0 false
     let g := s1.eng 0
     ∃ s2 pl s3 r, s1.access 0 [] (s1.ctx 0) .load g.cr.esw.sb.toNat g.cr.sp.toNat 8 1 = (s2, .ok pl) ∧
       s2.waits 0 {} pl = false ∧ s2.load 0 pl 8 = .ok (s3, r) ∧ numAt r 0 2 = 0) :=
  ⟨by decide +kernel, _, .scratch 0x1000, _, _, rfl, by decide +kernel, rfl, by decide +kernel⟩

/-- CurdDecimal: every opcode on tallies +1; no condition is enabled. -/
def masked : State := one { deep 8 with cr := { (deep 8).cr with esw := { priv := false, dxe := 0 } } }

def decRows : List (Nat × Nat) :=
  [(0x40, 1), (0x41, 1), (0x42, 1), (0x43, 1), (0x44, 1), (0x45, 1), (0x46, 1), (0x48, 2), (0x49, 1), (0x4A, 2), (0x4B, 1),
    (0x50, 1), (0x51, 1), (0x53, 1), (0x90, 1), (0x91, 1), (0x92, 1)]

theorem wit_curd_decimal : ∀ r ∈ decRows, Runs masked r.1 0 (curdPops r.1 0) r.2 fun s1 =>
    (s1.eng 0).busyFor (curdPort r.1) = false ∧ (curdPort r.1 / 16 = 0x2D → s1.rnFault 0 {} (curdPort r.1) 0 = none) ∧
    ∀ c ∈ [DCond.data, .overflow, .divZero], (s1.esw 0).enabled c = false := runs_all (by decide +kernel)

/-- CurdDecimal and CurdFloat: a condition that is enabled, of no tally; a division of 0 by 0 and a T2F that rounds, every
trap enabled. -/
theorem wit_curd_raises :
    (∀ r ∈ [(0x40, 2), (0x48, 2), (0x51, 1), (0x90, 1)], Runs (one { deep 8 with t := List.replicate 32 0 }) r.1 0 r.2
        (if r.1 = 0x48 then 2 else 1) fun s1 =>
      (s1.eng 0).busyFor (curdPort r.1) = false ∧ (s1.esw 0).enabled .data = true ∧ (s1.eng 0).cr.esw.priv = false ∧ Calm s1 ∧
      (curdPort r.1 / 16 = 0x2D → s1.rnFault 0 {} (curdPort r.1) 0 = none)) ∧
    (daAdd 0 0 0).cond = some .data ∧ (dmMul 0 0 0 0).cond = some .data ∧ (cvD2b 0 0).cond = some .data ∧
    (ckOp 0 0 0).cond = some .data ∧
    (∀ x ∈ [(0x83, 2, (0 : Tally)), (0x52, 1, 0x9999999999999999999C)],
      Runs (one { deep 8 with t := List.replicate 32 x.2.2, cr := { (deep 8).cr with esw := { priv := false, dfte := 31 } } })
        x.1 0 x.2.1 1 fun s1 =>
      let l := (s1.eng 0).popped (s1.eng 0).cr.depth 2
      let q := curdLatch (s1.eng 0).ports 0x83 0 l
      (s1.eng 0).df = none ∧ (s1.eng 0).cr.esw.priv = false ∧ s1.rnFault 0 {} 0x2B3 0 = none ∧ s1.rnFault 0 {} 0x2D2 0 = none ∧
      (if x.1 = 0x83 then 31 &&& (dfOp 3 0 0 q.dfo q.dfo2 (latchOf (curdTrig 0x83 0 l).1 (curdTrig 0x83 0 l).2)).flags ≠ 0
        else (cvT2f x.2.2 0 0).1 = none ∧ 31 &&& (cvT2f x.2.2 0 0).2.2 ≠ 0) ∧ Calm s1) :=
  ⟨runs_all (by decide +kernel), by decide, by decide, by decide, by decide, runs_all (by decide +kernel)⟩

/-- CurdFloat: every opcode, narrow from a pair and widen to one; no trap is enabled. -/
theorem wit_curd_float :
    (∀ i ∈ List.range 14, Runs cs (0x80 + i) (dfOpOf i) (curdPops (0x80 + i) (dfOpOf i)) (if i = 12 then 2 else 1) fun s1 =>
      (s1.eng 0).df = none ∧ (i = 3 → s1.rnFault 0 {} 0x2B3 0 = none) ∧ (s1.esw 0).dfte = 0) ∧
    ∀ op ∈ [0x52], Runs cs op 0 1 1 fun s1 => (s1.eng 0).df = none ∧ s1.rnFault 0 {} 0x2D2 0 = none ∧
      (cvT2f 0x1C 0 0).1 = none :=
  ⟨runs_all (by decide +kernel), runs_all (by decide +kernel)⟩

/-- CurdMemory: opcode, elements popped and pushed, bytes, alignment; its accesses at offset 0x1C + 4, or SP + 8, lie in the
scratch window. -/
def memRows : List (Nat × Nat × Nat × Nat × Nat) :=
  [(0x20, 1, 1, 1, 1), (0x21, 1, 1, 2, 2), (0x22, 1, 1, 4, 4), (0x23, 1, 1, 8, 8), (0x24, 1, 1, 12, 4), (0x2D, 0, 1, 12, 4),
    (0x28, 2, 0, 1, 1), (0x29, 2, 0, 2, 2), (0x2A, 2, 0, 4, 4), (0x2B, 2, 0, 8, 8), (0x2C, 2, 0, 12, 4), (0x2E, 1, 0, 12, 4)]

/-- What CurdMemory asks of an access at an offset. -/
def curdAccess (s1 : State) (load : Bool) (off n align : Nat) : Bool :=
  if load then does (s1.access 0 [] (s1.ctx 0) .load 0 off n align) (fun s2 pl => s2.waits 0 {} pl) fun s2 pl => s2.load 0 pl n
  else does (s1.access 0 [] (s1.ctx 0) .store 0 off n align) (fun _ _ => false) fun s2 pl => s2.store 0 pl (toBytes n 0x1C)

theorem wit_curd_memory : ∀ r ∈ memRows,
    Runs cs r.1 (if r.1 = 0x2D ∨ r.1 = 0x2E then 2 else 4) r.2.1 r.2.2.1 fun s1 =>
    curdAccess s1 (decide (r.2.2.1 = 1))
      (if r.1 = 0x2D ∨ r.1 = 0x2E then (0x1000 + 4 * 2) % 2 ^ 32 else (0x1C + 4) % 2 ^ 32) r.2.2.2.1 r.2.2.2.2 = true :=
  runs_all (by decide +kernel)

/-- CurdStrings: the elements with which each instruction starts, and its elements. -/
def strOps : List (Nat × Tally) :=
  [(0x54, 0x505), (0x55, 0x505), (0x56, 0x505), (0xA0, 0x505), (0xA1, 0x505), (0xA2, 0x505), (0xA3, 0x500), (0xA4, 0x505),
    (0xA8, 0x505)]
def strUser (x : Tally) (saux : W64) : State :=
  one { deep 8 with t := List.replicate 32 x, cr := { (deep 8).cr with saux := saux } }

/-- What CurdStrings asks, as a check: a resume, a rep of count 0, or a start. -/
def strGoes (s : State) (op : Nat) (rep : Bool) (m : Nat) (ip start : Bool) : Bool :=
  let s1 := curdFetched s op 0 rep
  let g := s1.eng 0
  let k := curdPops op 0 + rep.toNat
  let l := g.popped g.cr.depth k
  curdGoes s op 0 rep && !g.busyFor (curdPort op) && !g.cr.esw.la && (g.cr.ip == ip) && fits g (if ip then 0 else k) m &&
    (ip || decide (op ≠ 0xA3) || decide ((l.getD 3 0).toNat % 2 ^ 8 = 0)) &&
    (!start || (!strBad (g.cr.strLoad op l) (curdPort op) && decide ((l.getD (k - 1) 0).toNat % 2 ^ 32 ≠ 0))) &&
    (start || ip || decide ((l.getD (k - 1) 0).toNat % 2 ^ 32 = 0))

theorem wit_curd_strings : ∀ r ∈ strOps, ∀ rep ∈ [false, true],
    strGoes (strUser r.2 (BitVec.ofNat 64 (2 ^ 63))) r.1 rep 1 true false = true ∧ strGoes (strUser r.2 0) r.1 rep 0 false true = true ∧
    strGoes (strUser 0 0) r.1 true 1 false false = true := by decide +kernel

/-- And on deep stacks: the slots that the pop of FILL brings back, and that the push of its resumption stores. -/
theorem wit_curd_strings_deep :
    (let s1 := curdFetched (one (deep 18)) 0xA4 0 false
     passed (State.checkSlots 0 [] .load (fillsOf 18 (18 - 3 + 1)) s1).2 = true ∧ fillsOf 18 16 = [0, 1]) ∧
    (let s1 := curdFetched (one (deep 16)) 0xA4 0 false
     passed (State.checkSlots 0 [] .store (spillsOf 16 17) s1).2 = true ∧ spillsOf 16 17 = [0]) := by decide +kernel

/-- StringIterations: an iteration that is not the last, and the last of a Curd instruction and of a repetition, under the
words of the mask ROM; and a fill in the scratch window. -/
def filling (n : BitVec 32) (popped : Bool) (rep : Bool := false) : State :=
  one { userEng with
    cr := { userEng.cr with
      sdst := 0x100, scnt := n, saux := BitVec.ofNat 64 (2 ^ 63 + n.toNat * 2 ^ 40 + 0x41), oshi := 0x120, lc := 2 }
    str := some { insn := .curd 0xA4 0 rep, port := 0x314, opmod := 0, vals := [], popped := popped, micro := { at_ := 0x58 } } }

/-- What StringIterations asks of a state at an iteration, and how far its operation has come, as a check. -/
def iterates (s : State) (ends : Bool) : Bool :=
  match (s.eng 0).str with
  | none => false
  | some run =>
    let s' := s.corrected (ceLines {})
    let sd := if (s.eng 0).rn.live then s'.draw else s'
    let o := s'.rnIter 0 {} run
    !(s.eng 0).atLimit && (s.eng 0).amc.isNone && goesOn o &&
      match sd.strIter 0 run.slot run.faddr (ueLines {}) run.port.toNat run.opmod.toNat with
      | (_, .ok (s1, r)) =>
        let u := s1.modEng 0 fun g =>
          ({ o.acts g with str := some { run with micro := o.micro run.port.toNat run.opmod.toNat } } : Eng).countUp
        let d := ((u.modEng 0 fun g => { g with cr := { g.cr with saux := setBit g.cr.saux 63 false } }).eng 0).cr.depth
        (o.result s'.fresh r).isSome == ends && !(u.eng 0).atLimit && decide ((u.eng 0).cr.lc - 1 ≠ 0) &&
          decide ((if run.popped then fillsOf run.deep (d + 1) else spillsOf d (d + 1)) = [])
      | _ => false

theorem wit_iterations :
    iterates (filling 17 true) false = true ∧ iterates (filling 17 false) false = true ∧
    (∀ popped ∈ [true, false], iterates (filling 16 popped) true = true) ∧ iterates (filling 16 true true) true = true ∧
    ∃ run, ((filling 17 false).eng 0).str = some run ∧ run.port = 0x314 ∧
      (let o := ((filling 17 false).corrected (ceLines {})).rnIter 0 {} run
       goesOn o = true ∧ o.result (filling 17 false).fresh none = none) ∧ ((filling 17 false).eng 0).mem.sbuf = [] ∧
      16 - offOf ((filling 17 false).eng 0).cr.sdst % 16 < ((filling 17 false).eng 0).cr.scnt.toNat ∧
      ∀ i, i < 16 → inScratch ((filling 17 false).eng 0).cr.scrw (bankOf ((filling 17 false).eng 0).cr.sdst)
        (offOf ((filling 17 false).eng 0).cr.sdst + i) = true :=
  ⟨by decide +kernel, by decide +kernel, by decide +kernel, by decide +kernel,
    _, rfl, rfl, by decide +kernel, by decide, by decide, by decide⟩

theorem passed_ok {α : Type} {r : Prep α} (h : passed r.2 = true) : ∃ a, r = (r.1, .ok a) := by
  obtain ⟨s, r⟩ := r
  cases r with
  | error x => cases h
  | ok a => exact ⟨a, rfl⟩

/-- ExceptionEntry: with a TSB in the scratch window and the vectors in the page of code, and without a TSB. -/
def vec : State := one { rindEng with cr := { rindEng.cr with tsbr := 1, xvec := 0x8000 } }

def vec0 : State := ((((vec.modEng 0 fun g => g.flags 0).syncEvent 0).strFill 0 []).landAll 0).1

/-- The state after the TSB of an entry of class 0x16 is written. -/
def vec3 : State := vec0.putTsb 0 (.scratch 0) (vec0.tsbImage 0 { exc := { cls := 0x16 } } none)

theorem wit_entry :
    (let x : Entry := { exc := { cls := 0x16 } }
     let l := (((vec.modEng 0 fun g => g.flags x.exc.aflag).syncEvent 0).strFill 0 []).landAll 0
     let u := l.1
     let y : Entry := { x with dd := x.dd <|> l.2.1, df := x.df <|> l.2.2 }
     let c := (u.eng 0).cr
     (vec.eng 0).mode = .running ∧ (u.eng 0).mode = .running ∧ (vec.eng 0).cr.esw.salv = false ∧ bit c.tsbr 0 = true ∧ c.esw.tx = 0 ∧ ∃ s2 pl s3 s4 q,
       u.access 0 [] (u.supCtx 0) .store (fld c.tsbr 47 32) (tsbOff c.tsbr) 512 1 = (s2, .ok pl) ∧
       s3 = s2.putTsb 0 pl (s2.tsbImage 0 y none) ∧
       s3.access 0 [] (s3.supCtx 0) .fetch (fld (s3.eng 0).cr.xvec 47 32)
         (fld (s3.eng 0).cr.xvec 31 12 * 4096 + 64 * x.exc.cls) 64 1 = (s4, .ok q)) ∧
    (let u := ((((rind.modEng 0 fun g => g.flags 0).syncEvent 0).strFill 0 []).landAll 0).1
     (rind.eng 0).mode = .running ∧ (u.eng 0).mode = .running ∧ (rind.eng 0).cr.esw.salv = false ∧ bit (u.eng 0).cr.tsbr 0 = false ∧ (u.eng 0).t.length = 32) := by
  obtain ⟨q, h⟩ := passed_ok (r := vec3.access 0 [] (vec3.supCtx 0) .fetch (fld (vec3.eng 0).cr.xvec 47 32)
    (fld (vec3.eng 0).cr.xvec 31 12 * 4096 + 64 * 0x16) 64 1) (by decide +kernel)
  refine ⟨⟨by decide +kernel, by decide +kernel, by decide +kernel, by decide +kernel, by decide +kernel, vec0, .scratch 0, _, _, q, ?_, rfl, h⟩, by decide +kernel⟩
  refine access_scratch (by decide +kernel) (by decide) fun i hi => ?_
  have : (0 + i) % 2 ^ 32 / 2 ^ 14 = 0 := by omega
  show (true && true && decide ((0 + i) % 2 ^ 32 / 2 ^ 14 = 0)) = true
  simp only [this, decide_true, Bool.and_self]

/-- A bundle of the reserved FMT. -/
def noFmt : Bundle := BitVec.ofNat 128 (3 * 2 ^ 126)

/-- UndecodedTraps: a bundle of the reserved FMT, and the opcodes 0x08 and 0xFF. -/
theorem wit_undecoded :
    (let s := on rind noFmt
     let g := s.eng 0
     let u := (fetched rind noFmt).longDone 0
     g.ready = true ∧ g.cr.esw.priv = true ∧ g.amc = none ∧ g.imp = none ∧ g.owes = false ∧
     (∃ p, s.fetch 0 [] 16 = (fetched rind noFmt, .ok p) ∧ ofBytes p = noFmt.toNat) ∧
     (decodeCheck noFmt g.cr.esw.bp).isSome = true ∧ ((fetched rind noFmt).eng 0).amc = none ∧
     (u.eng 0).amc = none ∧ (u.eng 0).imp = none ∧ u.irq 0 = none) ∧
    ∀ op ∈ [(0x08 : Byte), 0xFF],
      let s := code user [op]
      let g := s.eng 0
      let u := ((s.fetchAt 0 [] g.pc.toNat 1).1.draw).longDone 0
      curdLen op.toNat = none ∧ g.ready = true ∧ g.cr.esw.priv = false ∧ g.amc = none ∧ g.imp = none ∧
      gives (s.fetchAt 0 [] g.pc.toNat 1).2 (fun p => decide (p = [op])) = true ∧
      (u.eng 0).amc = none ∧ (u.eng 0).imp = none ∧ u.irq 0 = none := by
  refine ⟨⟨by decide +kernel, by decide +kernel, by decide +kernel, by decide +kernel, by decide +kernel,
    (gives_spec (f := fun p => decide (ofBytes p = noFmt.toNat)) (by decide +kernel)).imp fun p h => ⟨h.1, of_decide_eq_true h.2⟩,
    by decide +kernel, by decide +kernel, by decide +kernel, by decide +kernel, by decide +kernel⟩, by decide +kernel⟩

/-! ### Statements about engines' events, turns and the Press -/

/-- Engine 0 with an interrupt that is due. -/
def asked : Eng := { rindEng with cr := { rindEng.cr with tkctl := 2, intm := 1, esw := { ie := true } } }

/-- A load that waits for its data, of unit 0: what LoadComplete's last clause asks, as a check. -/
def lateRow (r : Nat × Nat × Nat) (port : Nat) : Bool :=
  let b := bun (port + r.1) short0 0
  let u := (on rind b).modEng 0 fun g => { g with missing := none }
  let m := (u.moves 0 b).headD ⟨0, 0, 0, none, 0, false⟩
  isTrig m.dst && !m.pairBad (slotsOf b) && decide (u.moves 0 b = [m]) && decide (m.dst = port + r.1) && loadGoes b r.2.1 r.2.2 u m

/-- EngineEvents: an interrupt with and without a report before it, a machine check, a bundle limit of 1, a timer at its turn
and tick, a store buffer of one entry, an engine reset and an engine start under a configuration set, and loads that
arrive. -/
theorem wit_engine_events :
    (∀ i ∈ [none, some (⟨3, 0x250, 1, 0, 0, 0, 0⟩ : Imprecise)],
      let s := one { asked with imp := i }
      let u := s.longDone 0
      s.atBoundary 0 = true ∧ (s.eng 0).amc = none ∧ s.irqReq 0 = some 0x20 ∧ (u.eng 0).imp = i ∧ (u.eng 0).owes = false) ∧
    (let s := one { asked with amc := some 0x9000 }
     s.atBoundary 0 = true ∧ (s.eng 0).amc = some 0x9000) ∧
    ((one { rindEng with att := some ⟨5, false, false, false, 1, 0, 0, 1, 0, [], { resume := 0, esw := {}, peekOnly := false }⟩ }).eng 0).atLimit = true ∧
    (let s : State := { one { cr := { tkctl := 0x51, tkcmp := 0x30004 } } with trn := { turn := 3, tick := 4 } }
     (s.eng 0).mode = .running ∧ bit (s.eng 0).cr.tkctl 0 = true ∧
       (s.eng 0).cr.tkcmp.toNat ≤ (s.rxNow (vatOf 0)).1 * 2 ^ 16 + (s.rxNow (vatOf 0)).2) ∧
    (let s := one { mem := { sbuf := [⟨0x9000, 0x9000, [1], false⟩] } }
     (s.eng 0).mem.sbuf = ⟨0x9000, 0x9000, [1], false⟩ :: [] ∧ s.mem.poison.contains (0x9000 / 64) = false ∧
       Bytes.wf s.mem.bytes = true ∧ Bytes.wf s.mem.keys = true ∧ s.mem.late = []) ∧
    (let s : State := { engs := [(0, { mode := .running, hold := true })] }
     (s.eng 0).hold = true ∧ (s.eng 0).mode = .running) ∧
    (let s : State := { engs := [(0, { mode := .held, hold := false })], via := { sets := [⟨1, 0, 0, 0, 0, 0, []⟩] } }
     (s.eng 0).hold = false ∧ (s.eng 0).mode = .held ∧ s.setLast = some ⟨1, 0, 0, 0, 0, 0, []⟩) ∧
    (∀ ports ∈ [[0, 1], [0]], ∀ i ∈ [Insn.rind 0, Insn.curd 0x20 0 false],
      ((one { missing := some (i, ports) }).eng 0).missing = some (i, ports)) ∧
    [0, 1].filter (fun p => decide (p ≠ 0)) ≠ [] ∧ [0].filter (fun p => decide (p ≠ 0)) = [] ∧
    (∀ r ∈ lsRows, lateRow r 0x350 = true ∧ lateRow r 0x370 = true) := by decide +kernel

/-- Its next states of a bundle and a Curd instruction that were waiting. -/
theorem wit_load_ends :
    (match (on rind (bun 0x350 short0 0)).runBundle 0 (bun 0x350 short0 0) {} with | .next _ => true | _ => false) = true ∧
    (match (curdOn cs 0x20 4 false).curdRun (curdOn cs 0x20 4 false) 0 {} 0x20 4 false with
      | .next _ => true | _ => false) = true := by decide +kernel

/-- A Turner with the fields as given, in mode M4. -/
def trn (t : Turner) : State := { trn := t, dev := { mode := 4 } }

/-- Turner, first part: RUN 0; a tick inside a turn, at its last but one; the start, and the first tick of the next turn,
held, disciplined by PPS, and neither. -/
theorem wit_turner :
    bit (trn {}).trn.ctl 0 = false ∧
    (let s := trn { ctl := 1, status := 1, tick := 65534 }
     bit s.trn.ctl 0 = true ∧ s.ticking = true ∧ s.trn.tick < 65535) ∧
    (∀ s ∈ [trn { ctl := 1 }, trn { ctl := 1, status := 1, tick := 65535 }], bit s.trn.ctl 0 = true ∧
      (s.ticking = true → 65535 ≤ s.trn.tick) ∧ s.trn.src = 0 ∧
      (if s.ticking then s.trn.turn + 1 else s.trn.turn) < 2 ^ 48 - 1 ∧ s.dev.mode ≠ 7) ∧
    (trn { status := BitVec.ofNat 64 (2 ^ 24 + 9), tick := 65535 }).trn.held = true ∧
    ((trn { ctl := 1 }).trn.held = false ∧ (trn { ctl := 1 }).trn.disc = 0) ∧
    (trn { ctl := BitVec.ofNat 64 (1000 * 2 ^ 47 + 0x81), status := 1, phase := some (-40) }).phaseNow = some (-40) := by
  decide +kernel

/-- Turner, tick 0 of turn-start and of turn-step: an edge accepted and none; a credit with a HASH record in hand, and none. -/
theorem wit_turner_tick0 :
    (∀ edge ∈ [true, false], let s := trn { ctl := 0x11, status := 1, tick := 65535, edge := edge, goal := 5 }
      bit s.trn.ctl 0 = true ∧ s.ticking = true ∧ 65535 ≤ s.trn.tick ∧ s.trn.held = false ∧ s.dev.mode ≠ 7 ∧ s.trn.src = 1 ∧
        s.trn.edge = edge) ∧
    ∀ k ∈ [0, 3], let s : State := { trn { ctl := 0x21, status := BitVec.ofNat 64 (k * 2 ^ 19 + 1), tick := 65535 } with
        dev := { mode := 7 }, via := { rpl := { hashes := [(1, [])] } } }
      bit s.trn.ctl 0 = true ∧ s.trn.held = false ∧ s.via.rpl.frames = [] ∧ s.trn.src = 2 ∧ fld s.trn.status 23 19 = k ∧
        (s.via.rpl.hashes.find (s.trn.turn + 1)).isSome = true ∧ s.via.rpl.diverged = none := by decide +kernel

/-- Turner, edges in a running turn: outside the window on both sides, early, on time and late. -/
theorem wit_turner_edges :
    let x0 : Turner := { ctl := ({} : Turner).ctl + 0x11, status := 1, tick := 60000, edgeAt := some 0 }
    let s := trn { x0 with len := x0.nominal }
    let x := s.trn
    let tol := fld x.ctl 43 32
    let opens := (65536 - tol) * x.len / 65536
    let closes := x.len + tol * x.len / 65536
    x.src = 1 ∧ bit x.ctl 0 = true ∧ s.ticking = true ∧ x.held = false ∧ x.rearm = false ∧ x.edge = false ∧
      bit x.status 2 = false ∧ opens < 65535 * x.len / 65536 ∧ 65535 * x.len / 65536 < x.len ∧ x.len < closes := by
  decide +kernel

/-- A check word meets a receiver at its turn and tick, one that waits, one that is behind, and none. -/
theorem wit_check_words :
    (let at_ (l : AMap Rx) := trn { status := 1, turn := 3, tick := 256, rx := l }
     (∀ l ∈ [[], [(79, (⟨3, 256, none, false⟩ : Rx))]], let s := at_ l
       s.ticking = true ∧ s.trn.tick % 256 = 0 ∧ ∀ r ∈ s.trn.rx.map Prod.fst,
         (s.rxOf r).waiting = false ∧ (s.rxOf r).turn = s.trn.turn ∧ (s.rxOf r).tick = s.trn.tick) ∧
     (∀ x ∈ [(⟨3, 250, some 3, true⟩ : Rx), ⟨3, 255, none, false⟩], let s := at_ [(7, x)]
       s.ticking = true ∧ s.trn.tick % 256 = 0 ∧ s.trn.rx = [(7, x)] ∧
         (x.waiting = true ∨ x.waiting = false ∧ x.tick ≠ s.trn.tick ∧ x.bad ≠ some s.trn.turn))) := by decide +kernel

/-- Turner, second part, clause by clause. -/
theorem wit_turner_sources :
    (∀ s ∈ [trn { ctl := 0x11, edge := true }, trn { ctl := 0x10 }],
      s.trn.src = 1 ∧ (bit s.trn.ctl 0 = false ∨ s.trn.edge = true)) ∧
    (let s := trn { ctl := 0x11 }
     s.trn.src = 1 ∧ bit s.trn.ctl 0 = true ∧ s.trn.edge = false ∧ s.ticking = false) ∧
    (let s := trn { ctl := BitVec.ofNat 64 (1000 * 2 ^ 47 + 0x81), status := 1 }
     s.trn.src = 0 ∧ 2 ≤ s.trn.disc ∧ s.ticking = true ∧ s.trn.held = false ∧ (-100 : Int).natAbs < 2 ^ 23 ∧
       (2 * (-100 : Int)).natAbs ≤ s.trn.nominal / 64 ∧ s.trn.disciplined = true) ∧
    (let s := trn { ctl := BitVec.ofNat 64 (2 ^ 16 + 2 ^ 14 + 0x81), status := BitVec.ofNat 64 (2 ^ 24 + 9) }
     s.ticking = true ∧ s.trn.held = true ∧ fld s.trn.ctl 15 14 = 1 ∧ fld s.trn.ctl 31 16 ≤ fld s.trn.status 39 24 ∧
       s.dev.mode ∈ [4, 5, 7, 8] ∧ ({ s with dev := { mode := 3 } } : State).dev.mode ∉ [4, 5, 7, 8] ∧ s.trn.src = 0 ∧
       s.trn.disc = 2) ∧
    (let s := trn { status := 1, turn := 2 ^ 48 - 2 }
     s.ticking = true ∧ 2 ^ 48 - 2 ≤ s.trn.turn ∧ s.dev.mode ≠ 0) ∧
    (let s := trn { status := 1, turn := 2 ^ 48 - 2 ^ 20 }
     s.ticking = true ∧ 2 ^ 48 - 2 ^ 20 ≤ s.trn.turn ∧ s.trn.turn < 2 ^ 48 - 2) ∧
    (let s := trn { status := 1, turn := 2 ^ 48 - 2 ^ 20 - 1 }
     s.ticking = true ∧ s.trn.turn < 2 ^ 48 - 2 ^ 20) := by decide +kernel

/-- A transaction of recipe 0, and a Press with it under a configuration set of one recipe, whose engine 0 waits at a
bundle of no move. -/
def aTx : Tx := {
  peek := false, turn := 3, tick := 0, port := 0, sub := 0, src := ⟨0, 0, 0⟩, header := [], payload := [], cfg := 1 }
def aSet : CfgSet := ⟨1, 0, 0, 0, 0, 0, [List.replicate 64 0]⟩
def aWait : Wait := { resume := 0, esw := {}, peekOnly := false }
def press (t : Tx) (peekRsv : Nat) : State := {
  engs := [(0, { mode := .running, hold := false, wait := some aWait })]
  prs := { ctl := BitVec.ofNat 64 (peekRsv * 2 ^ 36), txs := [(5, t)], batches := [(3, { final := true })] }
  via := { sets := [aSet] }
  dev := { mode := 4 } }

/-- What Dispatches asks in common: a transaction that is queued, the engine's bundle retired, and a recipe. -/
def dispatchable (s : State) (t : Tx) : Bool :=
  (match (s.sbDrain 0).pxRetire 0 aWait with
    | (_, .ok s3) => decide ((s3.sbDrain 0).prs.txs.find 5 = some t) && decide ((s3.sbDrain 0).setVer t.cfg = some aSet)
    | _ => false) &&
  decide (s.prs.txs.find 5 = some t) && decide ((s.eng 0).wait = some aWait) && decide (t.phase = .queued) &&
    decide (((s.sbDrain 0).eng 0).amc = none) && decide (aSet.desc t.rid = some (List.replicate 64 0))

/-- Dispatches: a peek on a reserved engine, a posting, a solo run, and a posting whose policy is 2, SOLO. -/
theorem wit_dispatches :
    (let t : Tx := { aTx with peek := true }
     let s := press t 1
     dispatchable s t = true ∧ s.engFree 0 = true ∧ s.heldTurn t.turn = false ∧
       (s.isReserved 0 || !s.reservedFree) = true) ∧
    (∀ t ∈ [aTx, { aTx with solo := true }], let s := press t 0
      dispatchable s t = true ∧ s.takesPost 0 = true ∧ s.nearest t.port 0 = true ∧ s.isFinal t.turn = true ∧
      s.selecting = false ∧ t.rerun = 0 ∧ s.directSolo 5 t = false ∧
      (if t.solo then s.headKey = some 5 else s.earlierQueued 5 = false)) ∧
    (let s : State := { press aTx 0 with prs := { (press aTx 0).prs with recipes := [(0, { policy := 2 })] } }
     s.prs.txs.find 5 = some aTx ∧ (s.eng 0).wait = some aWait ∧ s.takesPost 0 = true ∧ s.nearest aTx.port 0 = true ∧
       s.isFinal aTx.turn = true ∧ s.earlierQueued 5 = false ∧ s.selecting = false ∧ aTx.rerun = 0 ∧
       s.directSolo 5 aTx = true) := by decide +kernel

/-- Commits: a sealed posting with one written byte, before and after its acknowledgement. -/
theorem wit_commits :
    ∀ acked ∈ [false, true],
      let t : Tx := { aTx with phase := .sealed 0, writes := [(0x100000, 7)], acked := acked }
      let s := press t 0
      let lines := linesOf t.writes
      4 ≤ s.dev.mode ∧ s.dev.mode ≤ 8 ∧ s.prs.txs.find 5 = some t ∧ s.prs.txs.find? (fun p => !p.2.peek) = some (5, t) ∧
      t.phase = .sealed 0 ∧
      (s.slicesOf lines).find? (fun x => s.sealFull x (s.homed x lines)) = none ∧ s.headKey = some 5 ∧
      s.onMoving lines = false ∧ lines.find? (fun l => s.bad [] (l * 64)) = none ∧ s.commitWaits lines = none ∧
      s.victims 5 lines = [] := by decide +kernel

/-- A Press with batch 3 in turn n and tick k. -/
def batch (b : Batch) (n k : Nat) (fresh : Bool) : State :=
  { prs := { batches := [(3, b)] }, trn := { status := 1, turn := n, tick := k, start := 1, fresh := fresh } }

/-- Releases, clause by clause; a slipped release waits while a record of the journal does. -/
theorem wit_releases :
    (let b : Batch := { final := true, staged := [(0x100000, 7)] }
     let s := batch b 5 0 true
     s.prs.batches = (3, b) :: [] ∧ s.ticking = true ∧ s.trn.tick = 0 ∧ s.trn.fresh = true ∧ s.trn.turn = 3 + 2 ∧
       s.trn.turn ≠ s.trn.start ∧ s.isComplete 3 = true ∧ b.missed = false ∧ b.readyAt < deadlineOf 3 ∧ s.relWaits = false ∧
       Bytes.wf s.mem.bytes = true ∧ Bytes.wf s.mem.keys = true ∧ risingFrom 0 s.prs.back = true ∧ risingFrom 0 b.staged = true) ∧
    (let b : Batch := { final := true, missed := true, readyAt := 5 * 2 ^ 16 }
     ∀ held ∈ [[], [(relTag, ([0] : List Byte))]],
     let s : State := { batch b 5 16 false with via := { jrn := { set := true, held := held } } }
     3 + 2 ≤ s.trn.turn ∧ s.trn.fresh = false ∧ s.trn.turn ≠ s.trn.start ∧ s.isComplete 3 = true ∧
       s.relWaits = !held.isEmpty ∧ s.trn.tick % 16 = 0 ∧ b.readyAt + 16 ≤ s.now) ∧
    (let b : Batch := {}
     let s := batch b 4 65519 false
     s.trn.turn = 3 + 1 ∧ 65519 ≤ s.trn.tick ∧ s.trn.start < s.trn.turn ∧ b.missed = false ∧ s.isComplete 3 = false ∧
       3 < s.trn.turn) := by decide +kernel

/-- Placement, clause by clause. -/
theorem wit_placement :
    ({ prs := { relBatch := some 3 } } : State).prs.relBatch = some 3 ∧
    (let s : State := { prs := { select := true, plcCtl := 0 } }
     s.prs.select = true ∧ s.trn.tick = 0 ∧ s.trn.fresh = false ∧ bit s.prs.plcCtl 0 = false) ∧
    (let s : State := { prs := { select := true } }
     s.prs.select = true ∧ s.trn.tick = 0 ∧ s.trn.fresh = false ∧ bit s.prs.plcCtl 0 = true ∧ bit s.prs.status 1 = false) ∧
    ({ prs := { moving := [(9, (3, 0))] } } : State).prs.moving.find 9 = some (3, 0) := by decide

/-! ### Statements about Intake and the host interface -/

/-- A frame of a KIND in turn 3 on lane 0 with SEQ 1 and no payload, its MAC computed with a key; and a device in M4 whose
lane 0 has that key. -/
def header (kind : Nat) : List Byte := [1, BitVec.ofNat 8 kind] ++ List.replicate 9 0 ++ [1] ++ List.replicate 8 0
def aKey : List Byte := List.replicate 32 0xA5
def aMac (kind : Nat) : List Byte := macOf aKey (header kind) []
def frame (payload : List Byte) : RxFrame := ⟨true, 74, 0, false, 0, 0, true, ⟨0, 0, 0⟩, some 3, 7, 32, payload, 4⟩
def takingSet : CfgSet := { aSet with descs := [[0, 0, 3] ++ List.replicate 61 0] }
def taking : State := {
  dev := { mode := 4 }, trn := { turn := 3, tick := 9, status := 1 }
  via := { sets := [takingSet], jrn := { set := true, size := 4096 } }
  itk := { subs := [(0, { set := true, up := true, ipver := 4 })], keys := [(0, aKey)]
           lanes := [(0, { valid := true, postEn := true, peekEn := true, keyv := true, ports := 1 })] } }

/-- Admission: a genuine frame of each KIND, a POST and a PEEK that pass every check, a frame with another MAC, one without
a header, and a sequence that the window admits. -/
theorem wit_admission :
    (∀ kind ∈ [1, 2, 3], taking.stamped 0 (frame (header kind ++ aMac kind)) = frame (header kind ++ aMac kind)) ∧
    (∀ kind ∈ [1, 2, 3], numAt (header kind ++ aMac kind) 1 1 = kind ∧
      ∃ x, Genuine taking 0 0 (frame (header kind ++ aMac kind)) x aKey ∧
        (kind ≠ 3 → ∃ c, Admissible taking 0 0 (frame (header kind ++ aMac kind)) x (kind == 2) 3 c)) ∧
    (∀ kind ∈ [1, 2, 3], let f := frame (header kind ++ List.replicate 12 0)
      taking.portsOn = true ∧ (taking.sub 0 0).takes f = true ∧ qlfOk f = true ∧ hLane f.payload < 1048576 ∧
      (taking.laneAt f.turn (hLane f.payload)).valid = true ∧ (taking.laneAt f.turn (hLane f.payload)).keyv = true ∧
      taking.laneKeyAt f.turn (hLane f.payload) = some aKey ∧
      macOf aKey f.payload (f.payload.drop 32) ≠ slice f.payload 20 12) ∧
    (∀ kind : Nat, kind ∈ [1, 2, 3] → ((taking.sub 0 0).takes (frame [1, BitVec.ofNat 8 kind]) &&
      qlfOk (frame [1, BitVec.ofNat 8 kind])) = false) ∧
    ({} : Lane).test 20 1 = .fresh := by
  refine ⟨by decide +kernel, fun kind hk => ?_, by decide +kernel, by decide, by decide⟩
  rcases List.mem_cons.1 hk with rfl | hk
  · refine ⟨?_, _, ⟨?_, ?_, ?_, ?_, rfl, ?_, ?_, ?_, ?_⟩, fun _ => ⟨takingSet, ?_, ?_, ?_, ⟨[0, 0, 3] ++ List.replicate 61 0, ?_⟩, ?_, ?_, ?_⟩⟩ <;> decide +kernel
  rcases List.mem_cons.1 hk with rfl | hk
  · refine ⟨?_, _, ⟨?_, ?_, ?_, ?_, rfl, ?_, ?_, ?_, ?_⟩, fun _ => ⟨takingSet, ?_, ?_, ?_, ⟨[0, 0, 3] ++ List.replicate 61 0, ?_⟩, ?_, ?_, ?_⟩⟩ <;> decide +kernel
  · cases List.mem_singleton.1 hk
    refine ⟨?_, _, ⟨?_, ?_, ?_, ?_, rfl, ?_, ?_, ?_, ?_⟩, fun h => absurd rfl h⟩ <;> decide +kernel

/-- PortFrames: a sub-port of each IP version, and one with a frame at each level alone. -/
theorem wit_port_frames :
    (∀ v ∈ [4, 6], let s := { taking with itk := { taking.itk with subs := [(0, { set := true, up := true, ipver := v })] } }
      s.portsOn = true ∧ (s.sub 0 0).set = true ∧ (s.sub 0 0).ipver = v ∧ (s.sub 0 0).ip = 0 ∧ (s.sub 0 0).up = true) ∧
    (∀ x ∈ [({ up := true, q1 := [(⟨0, 0, 0⟩, [1])] } : SubPort), { up := true, q2 := [(⟨0, 0, 0⟩, [1])] },
        { up := true, q3 := [(⟨0, 0, 0⟩, [1])] }],
      ({ dev := { mode := 3 }, itk := { subs := [(0, x)] } } : State).portsOn = true ∧
      (({ dev := { mode := 3 }, itk := { subs := [(0, x)] } } : State).sub 0 0).up = true ∧
      (x.q1 = (⟨0, 0, 0⟩, [1]) :: [] ∨ x.q1 = [] ∧ x.q2 = (⟨0, 0, 0⟩, [1]) :: [] ∨
        x.q1 = [] ∧ x.q2 = [] ∧ x.q3 = (⟨0, 0, 0⟩, [1]) :: [])) := by decide

/-- A PTP message of sender 5, and a device that follows it, with a Sync and a Delay_Req that wait for the rest. -/
def ptpMsg (two : Bool) : PtpMsg := { domain := 0, layer2 := true, sender := 5, twoStep := two, data := ⟨1, 6, 0, 0, 0, 9, 0⟩ }
def follows (p : Ptp) : State := { taking with
  trn := { taking.trn with ctl := 0x41 }, itk := { taking.itk with ptp := { p with master := some 5 } } }

/-- PtpServo: a message of the selected master, one-step and two-step, an awaited Follow_Up and Delay_Resp, a first Announce,
the PTP port's link up, and a generator that PTP disciplines. -/
theorem wit_ptp :
    (∀ two ∈ [false, true], let s := follows { awaits := some (0, 7, 0), req := some (0, 9) }
      s.portsOn = true ∧ s.ptpTakes 0 0 (ptpMsg two) = true ∧ s.itk.ptp.master = some (ptpMsg two).sender ∧
      (ptpMsg two).twoStep = two ∧ s.itk.ptp.awaits = some ((ptpMsg two).seq, 7, 0) ∧
      s.itk.ptp.req = some ((ptpMsg two).seq, 9)) ∧
    (follows {}).itk.ptp.req = none ∧ ptpOverOwn (ptpMsg false).data = true ∧
    (∀ h ∈ [(8, (⟨128, 6, 0, 0, 0, 3, 0⟩ : PtpData))], h.1 ≠ (ptpMsg false).sender →
      ptpPrecedes (ptpMsg false).data h.2 (ptpMsg false).sender h.1 = true) ∧
    (let s := follows {}
     s.itk.ptp.master.isSome = true ∧ s.portsOn = true ∧ (s.sub (fld s.trn.ctl 13 12) 0).up = true ∧ s.trn.src = 0 ∧
       s.trn.disc = 1 ∧ s.trn.held = false ∧ s.ticking = true) := by decide +kernel

/-- The PF with a mailbox, a ring and registers as given, in M3. -/
def pf (x : Fn) : State := { host := { fns := [(0, x)], vfs := 1, perst := true, linkUp := true }, dev := { mode := 3, pwrgood := true } }

/-- Mailboxes: an idle mailbox and a running one, with GO and without; and Viari not taking commands. -/
theorem wit_mailboxes :
    (pf {}).fnLive 0 = true ∧ (256 : W64).toNat < 512 ∧ bit 256 8 = true ∧ bit 0 8 = false ∧ (pf {}).vready 0 = true ∧
    fld ((pf {}).mbox 0 0).stat 2 0 = 0 ∧ fld ((pf { mbx := [(0, { stat := 2 })] }).mbox 0 0).stat 2 0 = 2 ∧
    ({ pf {} with dev := { mode := 1 } } : State).vready 0 = false := by decide

/-- A ring with sizes of 16, enabled or not, and one command accepted and not fetched. -/
def ringOn : Ring := { ctl := some 0x440001, sqPi := 1, order := [9], unannounced := 1 }

/-- Rings, clause by clause. -/
theorem wit_rings :
    (pf { rings := [(0, ringOn)] }).fnLive 0 = true ∧
    (let r := ((pf { rings := [(0, ringOn)] }).fn 0).ring 0
     bit (r.ctlOf 0) 0 = true ∧ r.sqCi % 2 ^ fld (r.ctlOf 0) 19 16 ≠ r.sqPi % 2 ^ fld (r.ctlOf 0) 19 16 ∧
      fld r.stat 15 8 < 16 ∧ r.order[fld r.stat 15 8]? = some 9 ∧ r.held = [] ∧ r.unannounced ≠ 0) ∧
    fld ((((pf { rings := [(0, { ringOn with ctl := some (0x440001 + BitVec.ofNat 64 (2 ^ 48)) })] }).fn 0).ring 0).ctlOf 0)
      55 48 ≠ 0 ∧
    (pf { rings := [(0, ringOn)] }).vready 0 = true ∧ (256 : W64).toNat < 2 ^ 16 ∧
    bit ((((pf {}).fn 0).ring 0).ctlOf 0) 0 = false ∧
    (∀ n ∈ [0x440001, 0x430001, 0x340001, 0x440000], let w := BitVec.ofNat 64 n
      fld w 47 24 = 0 ∧ fld w 15 14 = 0 ∧ fld w 7 2 = 0) ∧
    bit (0x440001 : W64) 0 = true ∧ 4 ≤ fld (0x440001 : W64) 19 16 ∧
    fld (0x440001 : W64) 19 16 ≤ fld (0x440001 : W64) 23 20 ∧ fld (0x430001 : W64) 19 16 < 4 ∧
    fld (0x340001 : W64) 23 20 < fld (0x340001 : W64) 19 16 ∧ bit (0x440000 : W64) 0 = false ∧
    fld (0x440000 : W64) 23 16 = 0x44 ∧
    fld ((((pf { rings := [(0, ringOn)] }).fn 0).ring 0).ctlOf 0) 23 16 = 0x44 := by decide +kernel

/-- Functions and PfFunctionReset: functions in reset and live, a message pending and not, a VF, and a running command of
each kind of function. -/
theorem wit_functions :
    (pf { flr := true }).fnLive 0 = false ∧ (pf {}).fnLive 3 = false ∧ (pf {}).fnLive 1 = true ∧ (pf {}).fnHere 0 = true ∧
    (pf {}).fnHere 1 = true ∧ (pf {}).host.vfs ≤ fld (1 : W64) 2 0 ∧ ((pf {}).fn 0).pend = 0 ∧
    bit (((pf {}).fn 0).evqCtl) 0 = false ∧ bit (0x40001 : W64) 0 = true ∧ fld (0x40001 : W64) 63 48 = 0 ∧
    fld (0x40001 : W64) 39 20 = 0 ∧ fld (0x40001 : W64) 15 14 = 0 ∧ fld (0x40001 : W64) 7 2 = 0 ∧
    4 ≤ fld (0x40001 : W64) 19 16 ∧
    (let x := (pf { pend := 4, msixOn := true }).fn 0
     bit x.pend 2 = true ∧ x.fmask = false ∧ x.msixOn = true ∧
       ∀ v ∈ List.range 64, v ≠ 2 → bit x.pend v = true → bit x.mask v = true) ∧
    (pf {}).dev.pwrgood = true ∧ (pf {}).dev.bscan = false ∧ (pf {}).dev.coldWait = none ∧
    ({} : State).dev.pwrgood = false ∧ ({ dev := { bscan := true } } : State).dev.bscan = true ∧
    ({ dev := { coldWait := some ⟨0, none, false, false⟩ } } : State).dev.coldWait.isSome = true := by decide +kernel

/-- TlbInvalidation: each operation with its OP, a vat that is not busy, one that is, one at which an earlier write of the
sender waits, and a request with an entry it names and one it does not. -/
theorem wit_tlbi :
    (∀ op ∈ [1, 2, 3, 4], fld (BitVec.ofNat 64 op) 2 0 = op) ∧ (pf {}).fnLive 0 = true ∧ (pf { flr := true }).fnLive 0 = false ∧
    ({} : Vat).inReset = false ∧ bit ({} : Vat).tlbiStat 0 = false ∧ ({} : Vat).held = [] ∧
    bit ({ tlbiStat := 1 } : Vat).tlbiStat 0 = true ∧
    ¬ (∀ h ∈ ({ held := [(.viari, 0x9818, 4, 0)] } : Vat).held, h.1 ≠ .viari) ∧
    (let s : State := { vats := [(0, { tlbiReq := some (7 * 4096, 2), tlb := [⟨0, 12, 0, 0, 7, 0⟩, ⟨0, 12, 0, 0, 8, 0⟩] })] }
     (s.vat 0).tlbiReq = some (7 * 4096, 2) ∧ (s.vat 0).held = [] ∧
     (s.vat 0).tlb.map (tlbNamed (7 * 4096) 2) = [true, false]) := by decide

/-- A device in which a write of Viari's and one of the host's wait at vat 3. -/
def waiting : State := { pf {} with vats := [(3, { tlbiStat := 1, held := [(.viari, 0x9818, 4, 0), (.host, 0x9818, 4, 0)] })] }

/-- ControlSpace: engines held, running and stopped, Prime and Standby, a unicast and a group window, the host's registers
and others, a window busy and not, a vat that holds a write back, and TRN_CTL with RUN 0 and 1. -/
theorem wit_control_space :
    (({} : State).vat 0).inReset = false ∧ (({} : State).vat 0).held = [] ∧
    (({} : State).eng 0).inHold = true ∧ ((one {}).eng 0).inHold = false ∧
    ({ dev := { mode := 1 } } : State).dev.mode = 1 ∧ (({} : State).eng 0).mode ≠ .running ∧
    (one {}).dev.mode ≠ 1 ∧ ((one {}).eng 0).mode = .running ∧ bit (1 : W64) 0 = true ∧ bit (2 : W64) 0 = false ∧
    ({} : State).members (winNo (.unicast 3)) = ([3], [3]) ∧
    ({ vcs := [(64, { mask := 6 })] } : State).members (winNo (.group 0)) = ([1, 2], [1, 2]) ∧
    (({} : State).targets [3] 0x018).1 ≠ [] ∧ (({} : State).targets [3] 0x018).2 ≠ 0x308 ∧
    hostMay (winNo (.unicast 3)) 0x9810 = true ∧ hostMay (winNo (.unicast 3)) 0x9800 = false ∧
    (∀ who ∈ [Who.viari, .host], ({} : State).vcsBusy who = false ∧ waiting.vcsBusy who = true ∧
      waiting.holdsWrite who 3 0x9810 0 = true ∧ waiting.holdsWrite who 2 0x9810 0 = false) ∧
    (({ vats := [(0, { inReset := true })] } : State).vat 0).inReset = true ∧
    (pf {}).fnLive 0 = true ∧ (pf { flr := true }).fnLive 0 = false ∧ bit ({} : State).trn.ctl 0 = false ∧ bit (trn { ctl := 1 }).trn.ctl 0 = true ∧
    (pf {}).cfgMode = true ∧
    (∀ run ∈ [0, 1], let w : W64 := BitVec.ofNat 64 (1000 * 2 ^ 47 + run)
      bit w 0 = decide (run = 1) ∧ trnReserved w = false ∧ periodBad w = false ∧ fld w 46 44 = 0 ∧ fld w 11 8 = 0 ∧
      fld w 3 2 = 0) := by decide +kernel

/-! ### Statements about commands of Viari -/

/-- The command of a CODE with parameter bytes, given by mailbox 0 of the PF and running in slot 0. -/
def aRun (code : Nat) (param : List Byte := []) : Run := { cmd := ⟨1, 0, 0, toBytes 2 code ++ List.replicate 6 0 ++ param, false⟩ }
def running (s : State) (code : Nat) (param : List Byte := []) : State :=
  { s with via := { s.via with runs := [(0, aRun code param)] } }

/-- Every CODE runs in slot 0, answers, and has not made its effect; its DMA is on. -/
theorem wit_running : ∀ code ∈ codes,
    (running (pf {}) code).via.runs.find 0 = some (aRun code) ∧ (aRun code).cmd.code = code ∧ (aRun code).mute = false ∧
    (aRun code).started = false ∧ (running (pf {}) code).dmaOn (aRun code).cmd.fn = true := by decide +kernel

/-- CommandStarts: DEV_INFO waits and starts; RECIPE_POLICY with a POLICY that is not listed waits and ends. -/
theorem wit_command_starts : ∀ row ∈ [(toBytes 2 1, (none : Option Nat)),
      (toBytes 2 0x405 ++ List.replicate 8 0 ++ [7], some 0x102)],
    let c : Cmd := ⟨1, 0, 0, row.1, false⟩
    let s : State := { pf {} with via := { queue := [c] } }
    (List.range 16).find? (fun k => (s.via.runs.find k).isNone) = some 0 ∧ s.nextCmd = some c ∧ s.vready c.fn = true ∧
      s.romOnly = false ∧ s.checkCmd c = row.2 := by decide +kernel

/-- ViariReports: a running bank; a command that has no record and one that has; registers that POLICY_READ and VCS_READ
read; a position of the journal; an engine that is held. -/
theorem wit_reports :
    ({ via := { fw := { running := some 1 } } } : State).via.fw.running = some 1 ∧
    (pf {}).findCmd 0 9 0 1 = none ∧
    (let s : State := { pf {} with via := { recs := [⟨0, 0, 0, 9, 3, 0, []⟩] } }
     s.findCmd 0 9 0 1 = some (0, 3, 0, [])) ∧
    (let c := (aRun 0x0006 (toBytes 8 (devBase + 0x1200000))).cmd
     devBase + 0x510000 ≤ c.n 8 8 ∧ c.n 8 8 % 8 = 0) ∧
    (let c := (aRun 0x0006 (toBytes 8 (devBase + 0x9800))).cmd
     devBase ≤ c.n 8 8 ∧ c.n 8 8 < devBase + 0x510000) ∧
    (let c := (aRun 0x0A00 (toBytes 8 (devBase + 0x9800))).cmd
     devBase ≤ c.n 8 8 ∧ c.n 8 8 < devBase + 0x510000 ∧ (pf {}).vcsBusy .viari = false ∧ (pf {}).vcsBusy .host = false ∧
       waiting.vcsBusy .viari = true ∧ waiting.vcsBusy .host = true) ∧
    (let c := (aRun 0x0702 (toBytes 8 0 ++ toBytes 8 0 ++ toBytes 4 64)).cmd
     let j : Journal := { set := true, size := 4096, made := 64 }
     c.n 8 8 + c.bufLen 16 ≤ j.made ∧ j.made ≤ c.n 8 8 + j.size ∧ ueLines {} = []) ∧
    ((pf {}).eng (18 * (aRun 0x0803).cmd.b 8 + (aRun 0x0803).cmd.b 9)).inHold = true ∧
    (let c := (aRun 0x0601 (toBytes 4 0 ++ toBytes 4 1)).cmd
     0 < (((List.range (c.n 12 4)).map fun i => ((pf {}).itk.lanes.get (c.n 8 3 + i) {}).bytes).flatten).length) := by
  decide +kernel

/-- ViariChanges: values of PRS_TUNE that pass and that do not; lane entries that pass and that do not; a port, a vat of
TLB_INVAL, journal positions and records that pass and that do not. -/
theorem wit_changes :
    (∀ row ∈ [(0x4008102000000000 + 1, true), (0x4008002000000000 + 1, false)],
      let c := (aRun 0x0005 (toBytes 8 (devBase + 0x1200020) ++ toBytes 8 row.1 ++ List.replicate 8 0xFF)).cmd
      let x := c.n 8 8 - devBase
      (pf {}).policyOk x (((pf {}).blockRead x &&& ~~~ c.w 24) ||| (c.w 16 &&& c.w 24)) = row.2) ∧
    fld (pf {}).trn.status 23 19 ≤ 16 ∧
    (let c := (aRun 0x0600 (toBytes 4 0 ++ toBytes 4 1 ++ toBytes 8 0 ++ toBytes 4 64)).cmd
     c.n 8 3 + c.n 12 4 ≤ 2 ^ 20 ∧ ∀ row ∈ [((0x80 : Byte), true), (0x88, false)],
       entryOk (slice (c.input 16 (row.1 :: List.replicate 63 0)) 0 64) = row.2) ∧
    (aRun 0x0603 [3]).cmd.b 8 < 4 ∧ (aRun 0x0700 [1]).cmd.b 8 < 2 ∧
    (pf {}).dev.mode = 3 ∧ (∀ v, v < 64 → ((pf {}).vat v).held = [] ∧
      bit ((pf {}).vat v).tlbiStat 0 = (((pf {}).vat v).tlbiReq).isSome) ∧
    (let c := (aRun 0x0A01 (toBytes 8 (devBase + 0x9810) ++ toBytes 8 7)).cmd
     let u (s : State) := s.vcsWrite .host ((c.n 8 8 - devBase) / 0x10000) ((c.n 8 8 - devBase) % 0x10000) (c.w 16) 1
     (u (pf {})).tagHeld 1 = false ∧ (u waiting).tagHeld 1 = false) ∧
    (let c := (aRun 0x0A01 (toBytes 8 (devBase + 3 * 0x10000 + 0x9810) ++ toBytes 8 7)).cmd
     (waiting.vcsWrite .host ((c.n 8 8 - devBase) / 0x10000) ((c.n 8 8 - devBase) % 0x10000) (c.w 16) 1).tagHeld 1 = true) ∧
    (let c := (aRun 0x0A02 (toBytes 8 0 ++ toBytes 8 4 ++ toBytes 8 5)).cmd
     c.w 24 &&& 2 = 0 ∧ bit (c.w 24) 0 = true ∧ ((pf {}).vat 0).inReset = false ∧ bit (c.w 24) 1 = false) ∧
    (aRun 0x0700).cmd.b 8 = 0 ∧ (pf {}).via.jrn.held = [] ∧
    (pf {}).via.jrn.made < (aRun 0x0701 (toBytes 8 1)).cmd.n 8 8 ∧
    (pf {}).via.jrn.used ≤ (aRun 0x0701).cmd.n 8 8 ∧ (aRun 0x0701).cmd.n 8 8 ≤ (pf {}).via.jrn.made ∧
    (∀ row ∈ [(List.replicate 64 (0 : Byte), true), ([0, 9, 0, 32] ++ List.replicate 60 0, false)],
      let c := (aRun 0x0703 (List.replicate 8 0 ++ toBytes 8 0 ++ toBytes 4 64)).cmd
      ((recordsOf (c.bufLen 16 / 32) (c.input 16 row.1)).bind fun l =>
        l.foldl (fun p x => p.bind fun p => p.take x) (some (pf {}).via.rpl)).isSome = row.2) := by decide +kernel

/-- A set under construction whose descriptors are none and whose window holds its TSB, with tables of no entry. -/
def aStage : CfgSet := ⟨2, 0, 0, 0, 1, 1, []⟩
def staged : State := { pf {} with via := { sets := [aSet], stage := some aStage } }

/-- The set under construction with page tables of one leaf, of 1 GiB. -/
def leafSet : CfgSet := { aStage with root := 0x100000 }
def leafy : State := { staged with
  via := { stage := some leafSet }
  mem := { bytes := writeBytes (writeBytes [] 0x100000 (toBytes 8 0x101001)) 0x101000 (toBytes 8 0xF) } }

/-- ViariSets: CFG_ACTIVATE of a set whose tables have a leaf. -/
theorem wit_sets_leaf :
    (let c := (aRun 0x0303 (toBytes 6 3)).cmd
     c.n 8 6 = 3 ∧ leafy.pendingSets.length < 2 ∧ leafy.effRange.1 ≤ 3 ∧ 3 ≤ leafy.effRange.2 ∧ ∀ p ∈ leafy.pendingSets, p.eff < 3) ∧
    (leafy.cpErrors (leafy.setFrames leafSet)).verifySet leafSet = none ∧ Bytes.wf leafy.mem.bytes = true ∧
    Bytes.wf leafy.mem.keys = true ∧ leafy.mem.poison = [] ∧
    fld leafSet.root 47 12 * 4096 = 0x100000 ∧ leafy.entry 0x100000 = 0x101001 ∧ leafy.entry 0x101000 = 0xF ∧
    (⟨0x101000, 2, 0xF, 0⟩ : Pte).leaf = true := by decide +kernel

/-- ViariSets, clause by clause. The image that FW_VERIFY verifies does not pass: what passes is open (Config.fvr,
Config.ecdsaVerify). -/
theorem wit_sets :
    (pf {}).via.stage = none ∧ (aRun 0x0300).cmd.b 8 = 0 ∧ ({ pf {} with via := { sets := [aSet] } } : State).setFor 0 = some aSet ∧
    (aRun 0x0300 [1]).cmd.b 8 ≠ 0 ∧
    (let c := (aRun 0x0301 ([1] ++ List.replicate 15 0 ++ List.replicate 8 0 ++ toBytes 4 64)).cmd
     c.b 8 = 1 ∧ descsOf (c.bufLen 24 / 40 + 1) (c.input 24 (List.replicate 64 0)) = some []) ∧
    (let c := (aRun 0x0301 ([2] ++ List.replicate 7 0 ++ toBytes 8 0x9000 ++ toBytes 8 0 ++ toBytes 4 4096)).cmd
     c.b 8 ≠ 1 ∧ staged.via.stage.isSome = true ∧
       ∀ f ∈ (List.range ((c.bufLen 24 + 4095) / 4096)).map fun i => c.n 16 8 / 4096 + i,
         staged.region (f * 4096) = .plain ∧ ∀ x ∈ staged.heldSets, f ∉ staged.setFrames x) ∧
    (let c := (aRun 0x0302).cmd
     rootsBad (c.w 8) (c.w 16) (c.w 24) (c.w 32) = false) ∧
    (let c := (aRun 0x0303 (toBytes 6 3)).cmd
     c.n 8 6 = 3 ∧ staged.pendingSets.length < 2 ∧ staged.effRange.1 ≤ 3 ∧ 3 ≤ staged.effRange.2 ∧
       ∀ p ∈ staged.pendingSets, p.eff < 3) ∧
    (staged.cpErrors (staged.setFrames aStage)).verifySet aStage = none ∧
    (let x := { aStage with scrw := 0 }
     (staged.cpErrors (staged.setFrames x)).verifySet x = some (2, 0)) ∧
    (pf {}).romOnly = false ∧ ({ via := { fw := { hostLoad := true } } } : State).romOnly = true ∧
    ({ valid := 2 } : Firmware).valid.getLsbD ((aRun 0x0102 [1, 1]).cmd.b 8) = true ∧
    (aRun 0x0102 [1, 1]).cmd.b 9 = 1 ∧ ({} : Firmware).valid.getLsbD ((aRun 0x0102).cmd.b 8) = false ∧
    imageOk 1 [] = false := by decide +kernel

/-- ViariLedger, clause by clause; for REGION_SET the window that it places is one that Viari takes or one that it does
not, as the firmware's windows are (Config.fwWindows). -/
def ledgerState : State := { pf {} with via := { sets := [aSet], rgnLdg := BitVec.ofNat 64 (2 ^ 32 + 1) }, mem := { ddrGib := 64 } }

theorem wit_ledger :
    (∀ p : W64 × W64, ((pf {}).rgnsOk (lRgn.write (pf {}).via.rgnLdg ((aRun 0x0400 (toBytes 8 1)).cmd.w 8)) p.1 p.2 = false)) ∧
    (pf {}).rgnsOk (lRgn.write (pf {}).via.rgnLdg ((aRun 0x0400).cmd.w 8)) 0 0 = true ∧
    (ledgerState.setFor ledgerState.trn.turn = some aSet ∧ ledgerState.pendingSets = [] ∧
      ledgerLeaves (ledgerState.treeOf aSet.root) = []) ∧
    (let c := (aRun 0x0401 (toBytes 8 0 ++ toBytes 4 64)).cmd
     let b := c.input 8 (List.replicate 64 0)
     let frames := frameSet (tableFrames aSet.root (ledgerState.treeOf aSet.root))
     ledgerState.mem.poison = [] ∧ ledgerState.engs = [] ∧ ({} : Eng).mem.sbuf = [] ∧ ∀ i ∈ List.range (c.bufLen 8 / 16), numAt b (16 * i) 8 % 8 = 0 ∧ numAt b (16 * i) 8 / 4096 ∈ frames) ∧
    (∀ i ∈ List.range ((aRun 0x0403 (toBytes 8 0 ++ toBytes 8 0 ++ toBytes 4 128)).cmd.bufLen 16 / 64),
      ledgerState.bad [] (0 + 64 * i) = false) ∧
    (let c := (aRun 0x0404 (toBytes 8 0 ++ toBytes 4 4)).cmd
     let b := c.input 8 [0, 0, 0, 0x85]
     (∀ v, v < 64 → (ledgerState.vat v).held = [] ∧
       bit (ledgerState.vat v).tlbiStat 0 = ((ledgerState.vat v).tlbiReq).isSome) ∧
     bit ledgerState.via.rgnLdg 0 = true ∧ ∀ i ∈ List.range (c.bufLen 8 / 4),
       numAt b (4 * i) 3 ≤ fld ledgerState.via.rgnLdg 63 44 ∧ (b.getD (4 * i + 3) 0).getLsbD 6 = false) ∧
    ledgerState.dev.mode = 3 ∧ ({ ledgerState with dev := { mode := 4 } } : State).dev.mode ≠ 3 ∧
    (let c := (aRun 0x0406 (toBytes 8 0x9000 ++ toBytes 4 1 ++ [8])).cmd
     Bytes.wf ledgerState.mem.bytes = true ∧ Bytes.wf ledgerState.mem.keys = true ∧ ledgerState.quiet = true ∧ ∀ i ∈ List.range (c.n 16 4),
       (isHbm ((c.n 8 8 / 4096 + i) * 4096) || ledgerState.isDdr ((c.n 8 8 / 4096 + i) * 4096)) = true) := by
  refine ⟨fun p => ?_, ?_⟩
  · have h : (pf {}).rgnOk 0 (lRgn.write (pf {}).via.rgnLdg ((aRun 0x0400 (toBytes 8 1)).cmd.w 8)) = false := by decide +kernel
    unfold State.rgnsOk
    rw [h]
    rfl
  · refine ⟨?_, ?_, ?_, ?_, ?_, ?_, ?_, ?_, ?_, ?_⟩ <;> decide +kernel

/-- ViariVault: a vault with an identity and an owner, and one without; where what unwraps, or a signature that is
accepted, is open (Config.gcmOpen, Config.ecdsaVerify), one of the two clauses has its hypotheses met. -/
def vaulted : State := { pf {} with via := { vault := { kid := some 1, kp := some [2], ko := some [], lkr := some [3], chal := some [1] } } }

theorem wit_vault :
    vaulted.dev.aon = true ∧ ({ vaulted with dev := { aon := false } } : State).dev.aon = false ∧
    (aRun 0x0903 (toBytes 6 3)).cmd.n 8 6 ≤ (pf {}).effRange.2 ∧ vaulted.via.vault.lkr = some [3] ∧
    (∃ kt, vaulted.via.vault.kt = some kt) ∧ vaulted.via.vault.kid = some 1 ∧ (pf {}).via.vault.kid = none ∧
    (let c := (aRun 0x0602 (toBytes 4 0 ++ toBytes 4 1 ++ toBytes 8 0 ++ toBytes 4 64)).cmd
     let e (i : Nat) : List Byte := slice (c.input 16 (List.replicate 64 0)) (64 * i) 64
     c.n 12 4 = 1 ∧ numAt (e 0) 60 4 = 0 ∧ ∀ kt, (unwrapKey kt (e 0) (c.n 8 3 + 0)).isSome = true ∨
       unwrapKey kt (e 0) (c.n 8 3 + 0) = none) ∧
    (pf {}).via.vault.ko = none ∧ (∀ x y, vaulted.via.vault.ko = some [] ∧
      (Config.ecdsaVerify [] x y = true ∨ Config.ecdsaVerify [] x y = false)) ∧
    ((aRun 0x0903 (toBytes 6 3)).cmd.n 8 6 = 3 ∧ ((pf {}).via.jrn.keys.filter fun p => decide ((pf {}).trn.turn < p.1)).length < 2 ∧
      (pf {}).effRange.1 ≤ 3 ∧ 3 ≤ (pf {}).effRange.2 ∧ ∀ p ∈ (pf {}).via.jrn.keys, p.1 < 3) ∧
    vaulted.via.vault.ko.isSome = true ∧ (∀ x, vaulted.via.vault.chal.elim false (fun c => Config.ecdsaVerify [] c x) =
      Config.ecdsaVerify [] [1] x) ∧ ({ ko := some [] } : Vault).chal.elim false (fun _ => true) = false := by
  refine ⟨rfl, rfl, by decide, rfl, ⟨_, rfl⟩, rfl, rfl, ⟨by decide +kernel, by decide +kernel, fun kt => ?_⟩, rfl, fun x y => ⟨rfl, ?_⟩, ⟨by decide +kernel,
    by decide, by decide, by decide, by decide⟩, rfl, fun _ => rfl, rfl⟩
  · generalize unwrapKey kt _ _ = o
    cases o <;> simp
  · cases Config.ecdsaVerify [] x y <;> simp

/-! ### Statements about modes, self-test, power, memory, reset and board ports -/

/-- A device in a mode. -/
def inMode (m : Nat) : State := { dev := { mode := m, pwrgood := true }, host := { perst := true } }

/-- Control-Only with everything Standby asks for. -/
def beforeStandby : State := { inMode 2 with
  mem := { mcs := (List.range 12).map fun i => (i, { info := 1 }) }
  via := { rgnLdg := 1, turnSet := true, jrnSet := true, sets := [aSet] } }

/-- ModesAndReset: the conditions of each transition; an engine and a vat that RESET may name. -/
theorem wit_modes :
    beforeStandby.standbyOk = true ∧ (inMode 2).standbyOk = false ∧ (inMode 3).fullVats = true ∧ (inMode 3).firstFits = true ∧
    ({ inMode 3 with vats := [(0, { lmask := 1, gmask := 1 })] } : State).fullVats = false ∧
    ({ inMode 3 with trn := { turn := 2 ^ 48 - 5, first := true } } : State).firstFits = false ∧
    (aRun 0x0002 ([7, 0] ++ toBytes 6 9)).cmd.n 10 6 ≤ 2 ^ 48 - 2 ^ 32 ∧
    2 ^ 48 - 2 ^ 32 < (aRun 0x0002 ([7, 0] ++ toBytes 6 (2 ^ 48 - 2))).cmd.n 10 6 ∧ modeSetListed 4 2 = false ∧
    modeSetListed 9 3 = false ∧ (inMode 3).via.jrn.ddr = false ∧
    (∀ row ∈ [(inMode 3).enterRun 0 4 0, (inMode 3).enterReplay 0 9], row.recordWaits 0 = true) ∧
    (let s : State := { inMode 3 with via := { jrn := { set := true, size := 4096 } } }
     ∀ row ∈ [s.enterRun 0 4 0, s.enterReplay 0 9], row.recordWaits 0 = false) ∧
    (∀ row ∈ [(2, 3), (3, 4), (3, 5), (3, 7), (3, 8), (4, 6), (5, 6), (7, 6), (8, 6), (6, 3), (2, 9), (10, 9), (9, 10), (3, 11), (10, 11),
        (4, 2), (9, 3)],
      (inMode row.1).dev.mode = row.1 ∧ (aRun 0x0002 [BitVec.ofNat 8 row.2]).cmd.b 8 = row.2) ∧
    ({ inMode 3 with via := { vault := { permit := true } } } : State).via.vault.permit = true ∧
    (inMode 3).via.vault.permit = false ∧ (inMode 6).ticking = false ∧
    (let s : State := { inMode 6 with prs := { relBatch := some 5 }, dev := { mode := 6, drainTo := 5 } }
     s.prs.relBatch = some 5 ∧ s.dev.drainTo ≤ 5) ∧
    (∀ kind ∈ [1, 2, 3], (aRun 0x0003 [BitVec.ofNat 8 kind, 5]).cmd.b 8 = kind) ∧ (aRun 0x0003 [2, 5]).cmd.b 9 < 64 ∧
    ((one {}).eng 0).att = none ∧ ((one {}).eng 0).mem.sbuf = [] ∧ ((one {}).eng 0).mode = .running := by decide +kernel

/-- A vat with a number of live engines, in turn n and tick k, its engine 0 running. -/
def slicing (x : Vat) (g : Eng) (n k : Nat) : State := { inMode 3 with
  vats := [(0, x)], engs := [(0, { g with mode := .running, hold := false })], trn := { status := 1, turn := n, tick := k } }

/-- SelfTests, clause by clause. -/
theorem wit_self_tests :
    (let s := slicing {} {} 1024 4096
     s.ticking = true ∧ s.trn.tick = 4096 ∧ s.trn.turn % 1024 = 16 * 0 ∧ (s.vat 0).inReset = false ∧ (s.vat 0).back = none ∧
       0 < (s.vat 0).live ∧ (s.vat 0).slot = none ∧ (s.vat 0).region = none ∧ 17 ≤ (s.vat 0).live) ∧
    ({ stStat := BitVec.ofNat 64 (5 * 2 ^ 54) } : Vat).standby = some 5 ∧ ({ slot := some 3 } : Vat).slot = some 3 ∧
    (let s := slicing { lmask := 0xFFFF } {} 1024 4096
     (s.vat 0).live < 17 ∧ (s.vat 0).slot = none ∧ (s.eng (18 * 0 + (s.vat 0).next)).mode = .running ∧
       (s.eng (18 * 0 + (s.vat 0).next)).drain = false) ∧
    (let s := slicing { lmask := 0xFFFF } { drain := true } 1024 65535
     (s.eng (18 * 0 + (s.vat 0).next)).drain = true ∧ s.trn.tick = 65535 ∧ s.mapRun (18 * 0 + (s.vat 0).next) = none ∧
       (running s 0x0802).mapRun (18 * 0 + (s.vat 0).next) = none ∧
       (({ s with via := { runs := [(0, { aRun 0x0802 with started := true })] } } : State).mapRun
         (18 * 0 + (s.vat 0).next)).isSome = true) ∧
    (let s := slicing { lmask := 0xFFFF, slot := some 3 } {} 1024 8000
     (s.vat 0).slot = some 3 ∧ (s.vat 0).offrot = false ∧ (s.vat 0).live < 17 ∧
       ∀ k ∈ List.range 18, (s.eng (18 * 0 + k)).mode ≠ .stopped) ∧
    (let s := slicing {} { drain := true, wait := some { resume := 0, esw := {}, peekOnly := false } } 1024 8000
     let g := s.eng 0
     g.drain = true ∧ g.att = none ∧ g.wait.isSome = true ∧ g.mode = .running ∧ g.mem.sbuf = [] ∧ s.via.runs = [] ∧
       17 ≤ (s.vat 0).live ∧ (s.vat 0).back = none ∧ (s.vat 0).standby = none) ∧
    (let s := slicing { lmask := 0xFFFF } {} 0 0
     (s.vat 0).live < 17 ∧ (s.vat 0).slot = none) := by decide +kernel

/-- SelfTests: MISRs that hold the signature of the image and that do not, and patch RAM that is Viari's copy. -/
theorem wit_self_tests_verdicts (image : List Byte) (kind n : Nat) :
    (∃ bad, bad ≠ Config.signature image kind n) ∧
      ({ engs := [(0, { rn := { patch := ({} : Firmware).patch.1 } })] } : State).patchGood 0 ⟨0, true⟩ = true :=
  ⟨by
    by_cases h : Config.signature image kind n = 0
    · exact ⟨1, by rw [h]; decide⟩
    · exact ⟨0, fun x => h x.symm⟩, by
    simp only [State.patchGood, State.patchSame, Bool.true_and]
    exact decide_eq_true rfl⟩

theorem wit_self_tests_commands :
    (∀ row ∈ [(1, EngMode.running), (1, .held), (1, .mapped), (2, .mapped)],
      let s : State := { inMode 3 with engs := [(0, { mode := row.2 })] }
      let c := (aRun 0x0802 [0, 0, BitVec.ofNat 8 row.1]).cmd
      (s.vat (c.b 8)).gmask.getLsbD (c.b 9) = true ∧ c.b 10 = row.1 ∧ c.b 9 < 18 ∧ (s.eng (18 * c.b 8 + c.b 9)).mode = row.2) ∧
    (({ vats := [(0, { gmask := 0 })] } : State).vat 0).gmask.getLsbD 0 = false ∧
    (aRun 0x0804 [0, 9]).cmd.b 9 < 18 ∧
    ((inMode 3).eng 0).inHold = true ∧ ((one {}).eng 0).inHold = false ∧ 2 ≤ (inMode 3).dev.mode ∧ (inMode 3).dev.mode ≤ 8 ∧
    ({ slot := some 3 } : Vat).slot.isSome = true ∧ ({} : Vat).slot = none ∧
    (∀ q ∈ [none, some 0], let s := slicing { region := q } {} 8 20480
      s.ticking = true ∧ s.trn.tick = 20480 ∧ s.trn.turn % 1024 = 16 * 0 + 8 ∧ (s.vat 0).inReset = false ∧
        (s.vat 0).region = q ∧ fld (s.vat 0).stStat 25 20 ≠ 0) ∧
    (let s := slicing {} {} 0 36864
     s.ticking = true ∧ s.linkDue 0 = true ∧ s.dev.linkBusy.contains 0 = false) ∧
    ({ dev := { linkBusy := [0] } } : State).dev.linkBusy.contains 0 = true ∧ 0 < ((inMode 3).dev.links.get 0 (8, 8)).1 ∧
    (inMode 3).dev.mode ≠ 0 := by decide +kernel

/-- PowerLoops, clause by clause. -/
theorem wit_power :
    (inMode 2).retargetDue = false ∧ (inMode 3).retargetDue = true ∧
    ((inMode 3).vat 0).now < ((inMode 3).vat 0).lim 0 1800 1800 ∧ ((inMode 3).vat 0).raise = none ∧
    bit ((inMode 3).vat 0).pwrCtl 1 = true ∧ ((inMode 3).pwr.rails.get 0 {}).pend = none ∧
    ((inMode 3).pwr.rails.get 0 {}).bad = false ∧ ({ target := some 1700 } : Vat).lim 0 1200 1200 < ({ target := some 1700 } : Vat).now ∧
    (let s : State := { inMode 3 with
       vats := [(0, { raise := some 1250, target := some 1225 })], pwr := { rails := [(0, { pend := some 806, bad := true })] } }
     (s.vat (8 * 0 + 0)).raise = some 1250 ∧ (s.vat (8 * 0 + 0)).need ≤ (s.pwr.rails.get 0 {}).pend.getD 0 ∧
       8 ≤ [8].getD 0 0 ∧ (s.vat 0).target = some 1225 ∧ 1225 < 2 ^ 12 ∧ (s.vat 0).freq ≤ 1225 ∧
       (s.pwr.rails.get 0 {}).bad = true) ∧
    (∀ x ∈ [none, some 7], (({ inMode 3 with pwr := { raw := x } } : State).loopsRun = true ∧
      ({ inMode 3 with pwr := { raw := x } } : State).pwr.raw = x)) ∧ (inMode 9).loopsRun = false ∧ (inMode 3).dev.coldWait = none ∧
    (8 : Nat) ≤ (9 : Fin 10).val ∧ (inMode 3).dev.bscan = false ∧ ((inMode 3).vat 0).target = none ∧
    fld ((inMode 3).vat (8 * 0 + 0)).tookBound 63 48 < ({ vfStat := BitVec.ofNat 64 (1800 * 2 ^ 52) } : Vat).freq ∧
    (let s : State := { inMode 3 with
       host := { perst := true, linkUp := true }, pwr := { coefs := [(0, [1, 2])] }
       itk := { subs := [(0, { set := true })], speed := [(0, 2)] } }
     bit s.pwr.srd 5 = true ∧ 2 ≤ s.dev.mode ∧ s.dev.mode ≤ 8 ∧ s.receiverUp 0 = true ∧ s.receiverUp 16 = false ∧
       0 < (s.pwr.coefs.get 0 (List.replicate 6 0)).length ∧ 0 < ([[(5 : Int)]].getD 0 []).length ∧ s.host.perst = true ∧
       s.dev.pwrgood = true ∧ (s.sub 0 0).set = true ∧ s.itk.speed.find 0 = some 2) := by decide +kernel

/-- MemoryCare, clause by clause, for controller 0. -/
def caring (m : Mc) (n k : Nat) : State := { inMode 3 with
  mem := { mcs := [(0, { m with info := 1 }), (4, { info := 1 })], ddrGib := 64 }, trn := { status := 1, turn := n, tick := k }
  via := { rgnLdg := BitVec.ofNat 64 (2 ^ 32 + 1) } }

theorem wit_memory_care :
    (caring {} 0 0).mcReady 0 = true ∧ (caring { window := true } 0 0).trackingMode = true ∧
    ((caring { window := true } 0 0).mc 0).window = true ∧
    (let s := caring {} 64 49152
     s.ticking = true ∧ s.trn.tick = 49152 ∧ s.trn.turn % 128 = 64 + 0) ∧
    bit ((caring {} 0 0).mcScrub 0) 0 = true ∧ isHbm (64 * 0) = true ∧ mcOf (64 * 0) = 0 ∧
    (caring {} 0 0).mem.poison.contains 0 = false ∧
    (inRgn (caring {} 0 0).via.rgnLdg (64 * 0) || (caring {} 0 0).inClog (64 * 0)) = false ∧
    (let line := 2 ^ 41 / 64
     (caring {} 0 0).isDdr (64 * line) = true ∧ inRgn (caring {} 0 0).via.rgnLdg (64 * line) = true ∧
       mcOf (64 * line) = 4 ∧ (caring {} 0 0).mcReady 4 = true) ∧
    (∀ hbm ∈ [true, false], eccCorrects hbm ⟨[3], []⟩ = true ∧ eccCorrects hbm ⟨[3, 4], []⟩ = false) := by decide +kernel

/-- ResetAndBoot, clause by clause; whether an image's patch section passes is open (Config.patchSection). -/
theorem wit_reset_boot :
    (inMode 3).dev.aon = true ∧ (inMode 3).dev.pwrgood = true ∧ State.reset.dev.pwrgood = false ∧ State.reset.dev.resetN = true ∧
    ({ dev := { resetN := false } } : State).dev.resetN = false ∧ (inMode 3).warmOpen = true ∧ (inMode 3).dev.resetN = true ∧
    ({ inMode 3 with via := { warmWait := true } } : State).via.warmWait = true ∧ (inMode 3).via.warmWait = false ∧
    (let s : State := { inMode 1 with via := { fw := { running := some 1 } } }
     s.via.fw.running = some 1 ∧ s.dev.mode = 1 ∧ s.warmOpen = true) ∧
    (inMode 3).dev.coldWait = none ∧ (inMode 3).dev.warmHeld = false ∧ (inMode 3).romOnly = false ∧
    ({ inMode 3 with dev := { mode := 3, pwrgood := true, aon := false } } : State).dev.aon = false ∧
    (inMode 3).dev.pgLow = false ∧ ({ dev := { pgLow := true } } : State).dev.pgLow = true ∧
    (let s : State := { inMode 1 with dev := { mode := 1, pwrgood := true, bootKind := 2 }, mem := { mcs := [(0, { info := 1 })] } }
     s.hbmKept = true ∧ (inMode 1).hbmKept = false ∧ (s.mc 0).info ≠ 0) ∧
    (let r : WarmRec := ⟨0, 0, 0, 0, 0, [], [], {}, [], 0, none⟩
     ({ inMode 1 with dev := { mode := 1, pwrgood := true, record := some r } } : State).dev.record = some r) ∧
    (∀ v, v < 64 → ((inMode 1).vat v).inReset = false ∧ ((inMode 1).vat v).held = []) ∧
    ({ dev := { warmHeld := true, bootKind := 2 } } : State).dev.bootKind = 2 ∧
    ({ dev := { coldWait := some ⟨0, some 1, false, false⟩ } } : State).dev.coldWait = some ⟨0, some 1, false, false⟩ ∧
    (let s : State := { inMode 1 with via := { vault := { kid := some 1 } } }
     s.dev.mode = 1 ∧ s.dev.bscan = false ∧ s.via.fw.hostLoad = false ∧ s.via.vault.kid.isSome = true ∧ s.dev.record = none) ∧
    ({ via := { fw := { hostLoad := true } } } : State).via.fw.hostLoad = true ∧ (inMode 1).via.vault.kid = none ∧
    (let p : PrimeResult := ⟨[], List.replicate 8 [(32, 1, 0)], [], [], [], []⟩
     populationOk p = true ∧ p.hbmFail = [] ∧ p.links = [] ∧ p.stores = [] ∧ p.slots = []) ∧
    (⟨[1, 2], [], [], [], [], []⟩ : PrimeResult).hbmFail ≠ [] ∧
    (∀ b, imagePatchOk 1 [] = b ∨ imagePatchOk 1 [] = !b) ∧
    (inMode 3).cave.lost = [] ∧ ({ cave := { lost := [(0x8003, 2)] } } : State).cave.lost = [(0x8003, 2)] := by
  refine ⟨?_, ?_, ?_, ?_, ?_, ?_, ?_, ?_, ?_, ?_, ?_, ?_, ?_, ?_, ?_, ?_, ?_, ?_, ?_, ?_, ?_, ?_, ?_, ?_, ?_, ?_, fun b => ?_, ?_, ?_⟩
  case refine_27 => cases b <;> cases imagePatchOk 1 [] <;> simp
  all_goals decide +kernel

/-- BoardPorts: ports that are up and not, a record and none, and the conditions of the JTAG instructions. -/
theorem wit_board :
    (∀ p ∈ [SmbPort.sb, .mg], (inMode 3).smbusUp p = true) ∧ ({ dev := { aon := false, sbUp := false } } : State).smbusUp .sb = false ∧
    ({ cave := { rseq := 5 } } : State).cave.rseq ≠ 0 ∧ (inMode 3).cave.rseq = 0 ∧ (inMode 3).dev.mode ≠ 0 ∧
    (inMode 3).bscanOpen = false ∧ ({ dev := { mode := 1, bscan := true } } : State).bscanOpen = true ∧
    (inMode 3).scanOpen true = false ∧ ({ dev := { mode := 11, scanOn := true } } : State).scanOpen true = true := by decide +kernel

/-- StepKeepsForms and ModeTransitions: in a state that meets the invariants a step goes to another mode. -/
theorem wit_step : (let s : State := { State.reset with pending := [.pwrgoodRise ⟨0, none, false, false⟩] }
    s.memWf ∧ s.pressWf ∧ s.modeWf ∧ s.guardWf) ∧ ∃ t, step { State.reset with pending := [.pwrgoodRise ⟨0, none, false, false⟩] } = .next t :=
  ⟨⟨⟨rfl, rfl⟩, ⟨rfl, fun _ h => by cases h⟩, Nat.zero_le _, fun _ => (by decide : (1 : BitVec 16).getLsbD 0 = true)⟩, _, rfl⟩

/-- ForeignOperands: a slot that runs nothing, one that runs another CODE, and engines that fetch other bytes. -/
theorem wit_foreign : State.reset.via.runs.find 0 = none ∧ (aRun 0x0001).cmd.code ≠ 0x0002 ∧
    (0 : W64).getLsbD 0 = false ∧ (1 : W64).getLsbD 0 = true ∧ (0 : W64).toNat % 8 ≠ 1 ∧ (curdLen 0x00).isSome = true ∧
    (let g := (on rind 0).eng 0
     g.ready = true ∧ g.cr.esw.priv = true ∧ g.amc = none ∧
       gives ((on rind 0).fetch 0 [] 16).2 (fun p => decide (ofBytes p ≠ (1 : Bundle).toNat)) = true) ∧
    (let s := curdOn cs 0xA0 0 true
     let g := s.eng 0
     g.ready = true ∧ g.cr.esw.priv = false ∧ g.amc = none ∧ g.imp = none ∧
       gives (s.fetchAt 0 [] g.pc.toNat 2).2 (fun p => decide (p = [0xF0, 0xA0] ∧ p ≠ [0xF0, 0xA4])) = true) := by
  decide +kernel

/-! ### What WellFormed refuses -/

/-- An ill-formed command for each check. -/
theorem wf_refuses : ([
    .wheelMoveComplete (2 ^ 18), .vcsGroupWrite .viari .broadcast 0x9804 0, .vcsGroupWrite .viari .broadcast 0x10000 0,
    .vcsGroupRead .host .broadcast 1, .tick ⟨[80], []⟩, .tick ⟨[], [80]⟩, .checkWord [80], .vfRetarget [] 0, .railSettled 0 [1], .thermalTrip 0 256,
    .avsbusRetryRead 0 (some 65536), .scrub 0 (2 ^ 42) {} false,
    .vatStoreSliceComplete 0 ⟨0, [32768]⟩, .pwrgoodFall 0 false, .commandFetch 0 0 (some [1]), .arpRequest 0 0 (2 ^ 32) ⟨0, 0, 0⟩,
    .arpRequest 0 0 0 ⟨2 ^ 48, 0, 0⟩, .arpRequest 0 0 0 ⟨0, 2 ^ 128, 0⟩, .arpRequest 0 0 0 ⟨0, 0, 2 ^ 16⟩,
    .loadComplete 0 0 { errs := [(2 ^ 48, {})] }, .loadComplete 0 0 { parity := some 0 }, .loadComplete 0 0 { parity := some 6 },
    .primeComplete ⟨[], [], [], [], [], []⟩] : List Instr).all (fun i => !i.wf) = true := by decide

/-- A frame with each of its fields out of width, and Prime with more wires than a link has. -/
theorem wf_refuses_frames :
    (let f : RxFrame := ⟨true, 74, 0, false, 0, 0, true, ⟨0, 0, 0⟩, some 3, 7, 32, [], 4⟩
     f.wf = true ∧ ([{ f with tick := 65536 }, { f with turn := some (2 ^ 48) }, { f with vlan := 4096 },
       { f with dstIp := 2 ^ 128 }, { f with dstUdp := 2 ^ 16 }, { f with udpLen := 2 ^ 16 }, { f with ipver := 5 },
       { f with src := ⟨2 ^ 48, 0, 0⟩ }] : List RxFrame).all fun f =>
         !f.wf && !(Instr.post 0 0 f).wf && !(Instr.peek 0 0 f).wf && !(Instr.hello 0 0 f).wf) ∧
    (Instr.primeComplete ⟨[], List.replicate 8 [(32, 1, 0)], [], [], [(0, ⟨0, [264]⟩, {misr := 0})], []⟩).wf = false := by decide

/-- And commands that it takes. -/
theorem wf_takes : ([.wheelMoveComplete 5, .vcsGroupRead .host .broadcast 0x9800, .tick ⟨[79], [79]⟩, .railSettled 0 (List.replicate 8 1),
    .thermalTrip 0 120, .avsbusRetryRead 0 none, .pwrgoodFall 50 true, .testopenPermissionExpiry true] : List Instr).all
    Instr.wf = true := by decide

/-! ### Worked examples of the spec -/

/-- Chapter 8, a weighed item: 4.79 times 1.235 is 5.92, rounded half-up (RM 1). -/
theorem test_weighed_item :
    (dmMul 0x479C 0x1235C (1 * 32 + 3) 0).r = 0xC ∧ (dmMul 0x479C 0x1235C (1 * 32 + 3) 0).r2 = 0x592C := by decide

/-- Chapter 8, a tax split: 10.00 over 1.07 is 9.35, and the tax 0.65. -/
theorem test_tax_split :
    (ddDiv 0x1000C 0x107C (1 * 32 + 2) 0).r = 0x935C ∧ (ddDiv 0x1000C 0x107C (1 * 32 + 2) 0).r2 = 0x45D ∧
    (daSub 0x1000C 0x935C 0).r = 0x65C := by decide

/-- Chapter 8, cash rounding with m16 0x007F: 34.86 becomes 34.9, and 34.84 becomes 34.8. -/
theorem test_cash_rounding :
    (daSrnd 0x3486C 0x7F 0).r = 0x349C ∧ (daSrnd 0x3484C 0x7F 0).r = 0x348C ∧ (dmMul 0x349C 0x5C 0 0).r2 = 0x1745C := by decide

/-- Chapter 13, an add that overflows 11 digits: the digits kept, which the masked result +0 has the value of. -/
theorem test_overflow :
    (daAdd 0x99999999999C 0x1C 11).cond = some .overflow ∧ (daAdd 0x99999999999C 0x1C 11).r = 0xC := by decide

/-- Chapter 9, the encodings of +0E0, +1E0, the smallest and the greatest number, infinity and the NaNs, in both widths. -/
theorem test_float_encodings :
    dfEnc false (.fin false 0 0) = 0x2238000000000000 ∧ dfEnc false (.fin false 1 0) = 0x2238000000000001 ∧
    dfEnc false (.fin false 1 (-398)) = 1 ∧ dfEnc false (.fin false 9999999999999999 369) = 0x77FCFF3FCFF3FCFF ∧
    dfEnc false (.inf false) = 0x7800000000000000 ∧ dfEnc false dfDefault = 0x7C00000000000000 ∧
    dfEnc false (.nan false true 0) = 0x7E00000000000000 ∧ dfEnc true (.fin false 1 0) = 0x22080000000000000000000000000001 ∧
    dfEnc true (.fin false (10 ^ 34 - 1) 6111) = 0x77FFCFF3FCFF3FCFF3FCFF3FCFF3FCFF := by decide +kernel

/-- Chapter 9, a foreign tender: 250.00 at 0.91275 is 228.1875, and 228.19 in cents. -/
theorem test_foreign_tender :
    dfDec false (cvT2f 0x25000C (2 * 2) 0).2.1 = .fin false 25000 (-2) ∧
    dfMul false 0 (.fin false 25000 (-2)) (.fin false 91275 (-5)) = (.fin false 2281875000 (-7), 0) ∧
    (cvF2t (dfEnc false (.fin false 2281875000 (-7))) (2 * 2) 1).r = 0x22819C := by decide +kernel

/-- Engine 0 at the start of the edit of chapter 10, its stencil in the scratch window too. -/
def stencil : List Byte :=
  [0x05, 0x20, 0x2D, 0x24, 0x01, 0x2C, 0x01, 0x01, 0x01, 0x2C, 0x01, 0x01, 0x03, 0x2E, 0x03, 0x03, 0x04, 0x00]
def receipt : State := one { rindEng with
  cr := { rindEng.cr with ssrc := 0x200, sdst := 0x300, saux := BitVec.ofNat 64 (2 ^ 63 + 0x440) }
  mem := { rindEng.mem with scratch := writeBytes (writeBytes [] 0x200 [0x00, 0x01, 0x23, 0x45, 0x0D]) 0x440 stencil } }

/-- Iterations of an edit until it ends: the state, how many there were, and its result. -/
def edits : Nat → Nat → State → Option (State × Nat × Tally × Bool)
  | 0, _, _ => none
  | k + 1, n, s => match s.edIter 0 [] 0 64 with
    | (_, .ok (t, none)) => edits k (n + 1) t
    | (_, .ok (t, some r)) => some (t, n + 1, r)
    | _ => none

/-- Chapter 10, a receipt amount: the line is "   $1,234.50-", after iterations 0, 1 and 2, with ED.r 1 and P5 1. -/
theorem test_receipt_amount :
    (edits 5 0 receipt).map (fun x => (x.2, readBytes (x.1.eng 0).mem.scratch 0x300 13, (x.1.eng 0).cr.ssrc, (x.1.eng 0).cr.sdst)) =
      some ((3, 1, true), [0x20, 0x20, 0x20, 0x24, 0x31, 0x2C, 0x32, 0x33, 0x34, 0x2E, 0x35, 0x30, 0x2D], 0x205, 0x30D) := by
  decide +kernel

/-- R524: the ledger line at 0x0200_0123_4A40 is served by channel 1, of channel address 0x24_6940, in slot 1 of two. -/
theorem test_channel : mcOf 0x020001234A40 = 4 + 1 ∧ ddrChanAddr 0x020001234A40 = 0x246940 ∧ ddrSlot 2 0x020001234A40 = 1 := by
  decide

/-- Chapter 17: at QUOTA 200,000 and G 6, the limits of classes 0, 2, 4, 5 and 7. -/
theorem test_limits :
    let s : State := { itk := { ctl := BitVec.ofNat 64 (200000 * 2 ^ 43), status := BitVec.ofNat 64 (6 * 2 ^ 60) } }
    [0, 2, 4, 5, 7].map s.limit = [200000, 162500, 125000, 106250, 68750] := by decide +kernel

/-- R598, the hash functions: FIPS 180-4's value for "abc". -/
theorem test_hashes :
    ofBytes (sha256 [0x61, 0x62, 0x63]) = 0xBA7816BF8F01CFEA414140DE5DAE2223B00361A396177A9CB410FF61F20015AD ∧
    slice (sha384 [0x61, 0x62, 0x63]) 0 4 = [0xCB, 0x00, 0x75, 0x3F] := by decide +kernel

/-- Log 39, the CRC of the PEC: its check value, of the digits "123456789". -/
theorem test_pec : (List.range 9).foldl (fun c i => crc8 c (BitVec.ofNat 8 (0x31 + i))) 0 = 0xF4 := by decide +kernel

/-- R405 to R407, R410, R411: a word of zeros is bad, and a patch word END that stands for the entry of b2d ends it; a patch
RAM word of zeros there stops with the word's own microaddress. -/
theorem test_microwords :
    let r (w : BitVec 152) : Rennet := { patch := [(5, w)], pmatch := [(0, BitVec.ofNat 64 (2 ^ 31 + 5 * 2 ^ 16 + 0x60))] }
    parityGood 0 = false ∧
      (match (r (BitVec.ofNat 152 (7 * 2 ^ 140 + 0x7F * 2 ^ 144))).run false 0 9 true { at_ := 0x60 } with
        | .done m w => decide (m.at_ = 0x60) && decide (w = some (7 * 2 ^ 140 + 0x7F * 2 ^ 144))
        | _ => false) = true ∧
      (r 0).run false 0 9 true { at_ := 0x60 } = .fail 2 0x1005 0 := by decide +kernel

/-- R394, R416: a mask ROM word of a CV conversion that fails parity stops the engine, and it is mapped out. -/
theorem test_word_parity :
    (match exec (.cvB2d 0 (bun 0x2D0 longI 0 0xC) { parity := some 3 }) (on rind (bun 0x2D0 longI 0 0xC)) with
    | .next t => decide ((t.eng 0).mode = .mapped) && decide (t.dev.mapped = [0])
    | _ => false) = true := by decide +kernel

end Sys2Proof.Tests
end

section
/-! SUPPORT. The ALU triggers of a bundle (R187): what one of them does, alone in its bundle and beside one of the other
unit, and the decode check of its OPMOD. -/

namespace Sys2Proof.Machine

/-! ### One ALU trigger -/

/-- The trigger ports of ALU0 and ALU1 (R184). -/
def AluPort (p : Nat) : Prop := 0x210 ≤ p ∧ p ≤ 0x21B ∨ 0x230 ≤ p ∧ p ≤ 0x23B

/-- The result of an ALU trigger on the latches q (R187). -/
def aluRes (q : Ports) (m : Mv) : W64 :=
  aluOp (m.dst % 16) (if m.dst < 0x230 then q.alu0o else q.alu1o) (m.val.setWidth 64)

/-- The guard that an ALU trigger names, 0 for one that is no comparison (R187). -/
def aluGuard (m : Mv) : Nat := if 9 ≤ m.dst % 16 then m.op % 16 else 0

/-- The result port of an ALU trigger takes its result on the latches q. -/
def aluPut (q : Ports) (m : Mv) (p : Ports) : Ports :=
  if m.dst < 0x230 then { p with alu0r := aluRes q m } else { p with alu1r := aluRes q m }

/-- The act of an ALU trigger on engine e, h its port set in use and q the latches. -/
def aluAct (e : Nat) (h : Bool) (q : Ports) (m : Mv) : Act :=
  { Act.ports e h (aluPut q m) with guard := aluGuard m, gval := decide (aluRes q m = 1) }

theorem AluPort.isTrig {p : Nat} (h : AluPort p) : isTrig p = true := by
  unfold AluPort at h
  simp only [Machine.isTrig, trigTable, List.any_cons, Bool.or_eq_true, Bool.and_eq_true, decide_eq_true_eq]
  omega

theorem AluPort.unitOf {p : Nat} (h : AluPort p) : unitOf p = if p < 0x230 then 0x10 else 0x11 := by
  unfold AluPort at h
  unfold Machine.unitOf
  split <;> omega

theorem AluPort.not_str {p : Nat} (h : AluPort p) : isStr p = false := by
  unfold AluPort at h
  simp only [isStr, Bool.or_eq_false_iff, Bool.and_eq_false_iff, decide_eq_false_iff_not]
  omega

theorem AluPort.not_px {p : Nat} (h : AluPort p) : p ≠ 0x3D0 ∧ p ≠ 0x3D1 := by
  unfold AluPort at h
  omega

/-- The check of an ALU trigger passes, whatever it moves, and leaves the state as it is. -/
theorem prepMove_alu {s : State} {e : Nat} {v : Env} {q : Ports} {sl : List (Nat × Slot)} {m : Mv}
    (hd : AluPort m.dst) (hp : m.pairBad sl = false) :
    s.prepMove e v q sl m = (s, .ok (aluAct e (s.eng e).hset q m)) := by
  have hu := hd.unitOf
  simp only [State.prepMove, hp, isTrig_not_cr hd.isTrig, hd.isTrig, hd.not_str, Bool.not_true, Bool.false_eq_true, if_false]
  by_cases h0 : m.dst < 0x230
  · have hput : aluPut q m = fun p => { p with alu0r := aluRes q m } := funext fun p => if_pos h0
    rw [if_pos h0] at hu
    simp [hu, State.unitOp, aluAct, hput, aluRes, aluGuard, h0]
  · have hput : aluPut q m = fun p => { p with alu1r := aluRes q m } := funext fun p => if_neg h0
    rw [if_neg h0] at hu
    simp [hu, State.unitOp, aluAct, hput, aluRes, aluGuard, h0]

theorem aluGuard_lt (m : Mv) : aluGuard m < 16 := by
  unfold aluGuard
  split <;> omega

/-! ### The ports, AFLAG and guards of an engine -/

theorem setPorts_hset (g : Eng) (h : Bool) (f : Ports → Ports) : (g.setPorts h f).hset = g.hset := by
  unfold Eng.setPorts
  split <;> rfl

theorem setPorts_aflag (g : Eng) (h : Bool) (f : Ports → Ports) : (g.setPorts h f).cr.aflag = g.cr.aflag := by
  unfold Eng.setPorts
  split <;> rfl

theorem ports_setPorts_inUse {g : Eng} {h : Bool} (f : Ports → Ports) (hh : g.hset = h) :
    (g.setPorts h f).ports = f g.ports := by
  subst hh
  exact ports_setPorts g f

theorem guardPut_ports (g : Eng) (i : Nat) (v : Bool) : (g.guardPut i v).ports = g.ports := by
  unfold Eng.guardPut
  split <;> rfl

theorem guardPut_aflag (g : Eng) (i : Nat) (v : Bool) : (g.guardPut i v).cr.aflag = g.cr.aflag := by
  unfold Eng.guardPut
  split <;> rfl

theorem guardPut_self (g : Eng) {i : Nat} (v : Bool) (h : i ≠ 0) (h16 : i < 16) : (g.guardPut i v).p.getLsbD i = v := by
  have hclosed := closed_guard g [] { guard := i, gval := v } h h16
  rwa [Eng.closed, (step_change _ [] (i + 1)).guards i (Nat.ne_of_lt i.lt_succ_self)] at hclosed

/-- Palette registers, memory side and guards as a bundle's effects start. -/
theorem begun_regs (s : State) (e : Nat) (b : Bundle) :
    ((s.begun e (s.moves e b)).eng e).b = ((s.eng e).regMoves (s.moves e b)).b ∧
      ((s.begun e (s.moves e b)).eng e).mem = (s.eng e).mem ∧
      ∀ k, ((s.begun e (s.moves e b)).eng e).p.getLsbD k = ((s.eng e).regMoves (s.moves e b)).p.getLsbD k := by
  have hid (k : Nat) : UnitChange ((s.begun e (s.moves e b)).eng e) (id ((s.begun e (s.moves e b)).eng e)) k :=
    ⟨rfl, rfl, fun _ _ => rfl, ⟨rfl, rfl⟩, rfl, rfl, rfl, by split <;> rfl⟩
  have frame (k : Nat) := frame_one (F := id) (hid k)
  have heng : (((s.begun e (s.moves e b)).modEng e id).eng e) = (s.begun e (s.moves e b)).eng e :=
    State.eng_modEng_self _ _ _
  rw [← heng]
  exact ⟨(frame 0).palette, (frame 0).side.1, fun k => (frame (k + 1)).guards k (Nat.ne_of_lt k.lt_succ_self)⟩

/-! ### A bundle with one ALU trigger -/

/-- A bundle with one ALU trigger: its frame, ports, AFLAG and guard. -/
theorem issue_alu {s s1 : State} {e : Nat} {b : Bundle} {v : Env} {m : Mv}
    (hi : Issues s e b v s1) (ht : Triggers s1 e b m) (hd : AluPort m.dst) :
    ∃ t, s.issue e b v = .next t ∧ BundleFrame s1 t e b (aluGuard m) ∧
      (t.eng e).cr.aflag = (s1.eng e).cr.aflag ∧
      (t.eng e).ports = aluPut (s1.latched e b) m (s1.latched e b) ∧
      (aluGuard m ≠ 0 → (t.eng e).p.getLsbD (aluGuard m) = decide (aluRes (s1.latched e b) m = 1)) := by
  obtain ⟨hports, hset, haflag⟩ := begun_ports s1 e b
  obtain ⟨t, as, hx, hframe, heng⟩ := unit_one hi ht (prepMove_alu hd ht.pair) rfl hd.not_str hd.not_px.1 hd.not_px.2
    (fun _ => rfl) rfl (fun g hg => setPorts_change g _ _ _ hg)
  refine ⟨t, hx, hframe, ?_, ?_, fun h0 => ?_⟩
  · rw [heng, (closed_ports _ _ _).2.2.2, setPorts_aflag, haflag]
  · rw [heng, closed_ports', ports_setPorts_inUse _ hset, hports]
  · rw [heng]
    exact closed_guard _ as (aluAct e (s1.eng e).hset (s1.latched e b) m) h0 (aluGuard_lt m)

/-! ### A bundle with a trigger of each unit -/

/-- The acts of a bundle's moves around those of its two triggers. -/
def actsTwo (l1 l2 l3 : List Mv) (a a' : Act) : List Act := l1.map (fun _ => ({} : Act)) ++ a :: actsOne l2 l3 a'

/-- The checks of a bundle with two triggers are those of its triggers. -/
theorem prepMoves_two {s : State} {e : Nat} {v : Env} {q : Ports} {b : Bundle} {m m' : Mv} {l1 l2 l3 : List Mv} {a a' : Act}
    (hp : (l1 ++ l2 ++ l3).all (·.plain b) = true) (hm : s.prepMove e v q (slotsOf b) m = (s, .ok a))
    (hm' : s.prepMove e v q (slotsOf b) m' = (s, .ok a')) :
    State.prepMoves e v q (slotsOf b) (l1 ++ m :: l2 ++ m' :: l3) s = (s, .ok (actsTwo l1 l2 l3 a a')) := by
  rw [List.append_assoc, List.all_append, Bool.and_eq_true] at hp
  rw [List.append_assoc, prepMoves_append hp.1]
  simp only [List.cons_append, State.prepMoves, hm, prepMoves_one hp.2 hm']
  rfl

theorem mem_actsTwo {l1 l2 l3 : List Mv} {a a' x : Act} (h : x ∈ actsTwo l1 l2 l3 a a') : x = {} ∨ x = a ∨ x = a' := by
  have hn {l : List Mv} (h : x ∈ l.map fun _ => ({} : Act)) : x = {} := by
    obtain ⟨_, _, hx⟩ := List.mem_map.mp h
    exact hx.symm
  simp only [actsTwo, actsOne, List.mem_append, List.mem_cons] at h
  rcases h with h | h | h | h | h
  · exact .inl (hn h)
  · exact .inr (.inl h)
  · exact .inl (hn h)
  · exact .inr (.inr h)
  · exact .inl (hn h)

/-- The acts around two triggers run as theirs, one after the other. -/
theorem runActs_two (l1 l2 l3 : List Mv) {a a' : Act} {s u : State} (h : a.run s = .ok u) :
    runActs (actsTwo l1 l2 l3 a a') s = a'.run u := by
  induction l1 with
  | nil =>
    show (match a.run s with | .error x => _ | .ok s => runActs (actsOne l2 l3 a') s) = _
    rw [h]
    exact runActs_one l2 l3 a' u
  | cons x l ih => exact ih

/-- The guards that the acts around two triggers write. -/
theorem guards_two (l1 l2 l3 : List Mv) (a a' : Act) (g : Eng) :
    (actsTwo l1 l2 l3 a a').foldl (fun g x => g.guardPut x.guard x.gval) g =
      (g.guardPut a.guard a.gval).guardPut a'.guard a'.gval := by
  induction l1 with
  | nil => exact guards_one l2 l3 a' (g.guardPut a.guard a.gval)
  | cons x l ih => exact ih

/-- A move that starts no loop, string-class operation or PX wait and writes no control register: the checks of its bundle
are those of its moves, and its bundle retires at once. -/
structure Mv.Quiet (m : Mv) : Prop where
  loop : (isTrig m.dst && decide (unitOf m.dst = 0x1D)) = false
  str : isStr m.dst = false
  px : m.dst ≠ 0x3D0 ∧ m.dst ≠ 0x3D1
  cr : isCr m.dst = false

theorem quiet_of_plain {b : Bundle} {m : Mv} (h : m.plain b = true) : m.Quiet := by
  obtain ⟨hs, h0, h1, hc⟩ := plain_not h
  simp only [Mv.plain, Bool.and_eq_true, Bool.not_eq_true'] at h
  exact ⟨by simp [h.1.1], hs, ⟨h0, h1⟩, hc⟩

theorem quiet_of_alu {m : Mv} (h : AluPort m.dst) : m.Quiet := by
  refine ⟨?_, h.not_str, h.not_px, isTrig_not_cr h.isTrig⟩
  rw [h.unitOf]
  split <;> simp

/-- The moves around two ALU triggers and these are quiet. -/
theorem quiet_two {b : Bundle} {m m' : Mv} {l1 l2 l3 : List Mv} (hp : (l1 ++ l2 ++ l3).all (·.plain b) = true)
    (hd : AluPort m.dst) (hd' : AluPort m'.dst) : ∀ x ∈ l1 ++ m :: l2 ++ m' :: l3, x.Quiet := by
  intro x hx
  have hpl (h : x ∈ l1 ++ l2 ++ l3) : x.Quiet := quiet_of_plain (List.all_eq_true.mp hp x h)
  simp only [List.mem_append, List.mem_cons] at hx hpl
  rcases hx with (hx | rfl | hx) | rfl | hx
  · exact hpl (.inl (.inl hx))
  · exact quiet_of_alu hd
  · exact hpl (.inl (.inr hx))
  · exact quiet_of_alu hd'
  · exact hpl (.inr hx)

/-- The engine as a bundle ends whose triggers have no late effect: the guards they write, the bundle count, and where it
continues. -/
def Eng.ended (as : List Act) (g : Eng) : Eng :=
  let g' := as.foldl (fun g x => g.guardPut x.guard x.gval) g
  Eng.step { g'.countUp with nb := g'.nb + 1 } as

/-- After two triggers the bundle ends as it does after the second, with the guard of the first written before. -/
theorem ended_two (l1 l2 l3 : List Mv) (a a' : Act) (g : Eng) :
    Eng.ended (actsTwo l1 l2 l3 a a') g = Eng.closed (actsTwo l1 l2 l3 a a') a' (g.guardPut a.guard a.gval) := by
  rw [Eng.ended, guards_two]
  rfl

/-- A bundle of quiet moves whose acts neither wait nor have a late effect: the state that its acts give, and its end. -/
theorem runBundle_quiet {s u : State} {e : Nat} {b : Bundle} {v : Env} {as : List Act}
    (hq : ∀ x ∈ s.moves e b, x.Quiet)
    (hp : State.prepMoves e v (s.latched e b) (slotsOf b) (s.moves e b) s = (s, .ok as))
    (ha : ∀ x ∈ as, x.waits = [] ∧ x.late = none) (hr : runActs as (s.begun e (s.moves e b)) = .ok u) :
    s.runBundle e b v = .next (u.modEng e (Eng.ended as)) := by
  have hfind {p : Mv → Bool} (h : ∀ x : Mv, x.Quiet → p x = false) : (s.moves e b).find? p = none :=
    List.find?_eq_none.mpr fun x hx => Bool.not_eq_true _ ▸ h x (hq x hx)
  have hloop := hfind fun _ hx => hx.loop
  have hstr := hfind fun _ hx => hx.str
  have hpx : (s.moves e b).find? (fun m => m.dst = 0x3D0 || m.dst = 0x3D1) = none := hfind fun _ hx => by simp [hx.px]
  have hwaits : (as.map Act.waits).flatten = [] := by
    rw [List.flatten_eq_nil_iff]
    intro w hw
    obtain ⟨x, hx, rfl⟩ := List.mem_map.mp hw
    exact (ha x hx).1
  have hlate : as.findSome? Act.late = none := List.findSome?_eq_none_iff.mpr fun x hx => (ha x hx).2
  have hret : s.retire e (s.moves e b) as = (s, .ok (u.modEng e (Eng.ended as))) := by
    unfold State.retire
    simp only [hr, hlate, State.crMoves, crs_one fun x hx => (hq x hx).cr, State.modEng_modEng]
    rfl
  unfold State.latched at hp
  unfold State.runBundle State.prepAll
  simp only [hloop, hp, hwaits, hstr, hpx, pxWaits, hret]
  rfl

/-- Results of both units are in their ports in whichever order they are put there. -/
theorem aluPut_two {m m' : Mv} (hm : m.dst < 0x230) (hm' : ¬ m'.dst < 0x230) (q p : Ports) :
    aluPut q m' (aluPut q m p) = { p with alu0r := aluRes q m, alu1r := aluRes q m' } ∧
      aluPut q m (aluPut q m' p) = { p with alu0r := aluRes q m, alu1r := aluRes q m' } := by
  simp only [aluPut, if_pos hm, if_neg hm', and_self]

/-- What a bundle with two ALU triggers leaves, x the one in the lower slot (R180, R187). -/
structure TwoAlu (s1 t : State) (e : Nat) (b : Bundle) (x y : Mv) : Prop where
  only : OnlyEngine s1 t e
  ports : (t.eng e).ports = aluPut (s1.latched e b) y (aluPut (s1.latched e b) x (s1.latched e b))
  tally : (t.eng e).t = ((s1.eng e).regMoves (s1.moves e b)).t
  palette : (t.eng e).b = ((s1.eng e).regMoves (s1.moves e b)).b
  mem : (t.eng e).mem = (s1.eng e).mem
  aflag : (t.eng e).cr.aflag = (s1.eng e).cr.aflag
  lower : aluGuard x ≠ 0 → aluGuard x ≠ aluGuard y →
    (t.eng e).p.getLsbD (aluGuard x) = decide (aluRes (s1.latched e b) x = 1)
  upper : aluGuard y ≠ 0 → (t.eng e).p.getLsbD (aluGuard y) = decide (aluRes (s1.latched e b) y = 1)
  guards : ∀ k, k ≠ aluGuard x → k ≠ aluGuard y →
    (t.eng e).p.getLsbD k = ((s1.eng e).regMoves (s1.moves e b)).p.getLsbD k

/-- The engine with the results of two ALU triggers in their ports, x's first, and the guard of x written. -/
def Eng.aluTwo (g : Eng) (h : Bool) (q : Ports) (x y : Mv) : Eng :=
  ((g.setPorts h (aluPut q x)).setPorts h (aluPut q y)).guardPut (aluGuard x) (decide (aluRes q x = 1))

theorem aluTwo_change {g : Eng} {h : Bool} (hh : g.hset = h) (q : Ports) (x y : Mv) :
    UnitChange g (g.aluTwo h q x y) (aluGuard x) :=
  ((setPorts_change g h _ _ hh).trans (setPorts_change _ h _ _ ((setPorts_hset g h _).trans hh))).trans
    (guardPut_change _ _ _)

theorem aluTwo_ports {g : Eng} {h : Bool} (hh : g.hset = h) (q : Ports) (x y : Mv) :
    (g.aluTwo h q x y).ports = aluPut q y (aluPut q x g.ports) := by
  rw [Eng.aluTwo, guardPut_ports, ports_setPorts_inUse _ ((setPorts_hset g h _).trans hh), ports_setPorts_inUse _ hh]

theorem aluTwo_aflag (g : Eng) (h : Bool) (q : Ports) (x y : Mv) : (g.aluTwo h q x y).cr.aflag = g.cr.aflag := by
  rw [Eng.aluTwo, guardPut_aflag, setPorts_aflag, setPorts_aflag]

/-- What two ALU triggers and the end of their bundle leave of the state as its effects start. -/
theorem twoAlu_of_begun (s1 : State) (e : Nat) (b : Bundle) (as : List Act) (x y : Mv) :
    TwoAlu s1 ((s1.begun e (s1.moves e b)).modEng e fun g =>
      Eng.closed as (aluAct e (s1.eng e).hset (s1.latched e b) y) (g.aluTwo (s1.eng e).hset (s1.latched e b) x y))
      e b x y := by
  obtain ⟨hports, hset, haflag⟩ := begun_ports s1 e b
  obtain ⟨hb, hmem, hp⟩ := begun_regs s1 e b
  have lower := aluTwo_change hset (s1.latched e b) x y
  have upper := closed_change (((s1.begun e (s1.moves e b)).eng e).aluTwo (s1.eng e).hset (s1.latched e b) x y) as
    (aluAct e (s1.eng e).hset (s1.latched e b) y)
  refine ⟨(begun_eng s1 e _).2.trans (onlyEngine_modEng _ _ _), ?_, ?_, ?_, ?_, ?_, ?_, ?_, ?_⟩ <;>
    rw [State.eng_modEng_self]
  · rw [closed_ports', aluTwo_ports hset, hports]
  · exact (upper.tally.trans lower.tally).trans (begun_t s1 e b)
  · exact (upper.palette.trans lower.palette).trans hb
  · exact (upper.side.1.trans lower.side.1).trans hmem
  · rw [(closed_ports _ _ _).2.2.2, aluTwo_aflag, haflag]
  · exact fun h0 hne => (upper.guards _ hne).trans (guardPut_self _ _ h0 (aluGuard_lt x))
  · exact fun h0 => closed_guard _ as (aluAct e (s1.eng e).hset (s1.latched e b) y) h0 (aluGuard_lt y)
  · exact fun k hx hy => ((upper.guards k hy).trans (lower.guards k hx)).trans (hp k)

/-- A bundle with two ALU triggers, x the one in the lower slot. -/
theorem issue_two_alu {s s1 : State} {e : Nat} {b : Bundle} {v : Env} {x y : Mv} {l1 l2 l3 : List Mv}
    (hi : Issues s e b v s1) (hx : AluPort x.dst) (hy : AluPort y.dst) (hxp : x.pairBad (slotsOf b) = false)
    (hyp : y.pairBad (slotsOf b) = false) (hp : (l1 ++ l2 ++ l3).all (·.plain b) = true)
    (hl : s1.moves e b = l1 ++ x :: l2 ++ y :: l3) : ∃ t, s.issue e b v = .next t ∧ TwoAlu s1 t e b x y := by
  refine ⟨_, ?_, twoAlu_of_begun s1 e b (actsTwo l1 l2 l3 (aluAct e (s1.eng e).hset (s1.latched e b) x)
    (aluAct e (s1.eng e).hset (s1.latched e b) y)) x y⟩
  have hprep := prepMoves_two hp (prepMove_alu (s := s1) (e := e) (v := v) (q := s1.latched e b) hx hxp)
    (prepMove_alu hy hyp)
  rw [← hl] at hprep
  have hacts : ∀ a ∈ actsTwo l1 l2 l3 (aluAct e (s1.eng e).hset (s1.latched e b) x)
      (aluAct e (s1.eng e).hset (s1.latched e b) y), a.waits = [] ∧ a.late = none := by
    intro a ha
    rcases mem_actsTwo ha with rfl | rfl | rfl <;> exact ⟨rfl, rfl⟩
  rw [issue_of_issues hi, runBundle_quiet (by rw [hl]; exact quiet_two hp hx hy) hprep hacts (runActs_two l1 l2 l3 rfl)]
  simp only [State.modEng_modEng, ended_two]
  rfl

/-! ### Reserved OPMOD bits -/

/-- A slot whose OPMOD holds a reserved bit fails the decode checks (R206 order 3). -/
theorem decodeCheck_of_opBad {b : Bundle} (dly : Bool) {n : Nat} {x : Slot} (hx : (n, x) ∈ slotsOf b)
    (hb : x.opBad = true) : decodeCheck b dly ≠ none := by
  have hfind : (slotsOf b).find? (fun p => p.2.opBad) ≠ none := fun h =>
    absurd hb (List.find?_eq_none.mp h (n, x) hx)
  obtain ⟨y, hy⟩ := Option.ne_none_iff_exists'.mp hfind
  unfold decodeCheck
  dsimp only
  split
  · exact Option.some_ne_none _
  · simp [hy]

/-- A reserved OPMOD bit of an ALU trigger (R187). -/
theorem AluPort.opBad {x : Slot} (hd : AluPort x.dst) (h : if 9 ≤ x.dst % 16 then 16 ≤ x.op else x.op ≠ 0) :
    x.opBad = true := by
  have hbad : opmodBad x.dst x.op = if 9 ≤ x.dst % 16 then decide (16 ≤ x.op) else decide (x.op ≠ 0) := by
    have hu := hd.unitOf
    by_cases h0 : x.dst < 0x230
    · rw [if_pos h0] at hu
      simp only [opmodBad, hu]
    · rw [if_neg h0] at hu
      simp only [opmodBad, hu]
  rw [Slot.opBad, if_pos hd.isTrig, hbad]
  split
  · next h9 => exact decide_eq_true (by rwa [if_pos h9] at h)
  · next h9 => exact decide_eq_true (by rwa [if_neg h9] at h)

/-! ### The rows -/

/-- A row of the opcode table is the ALU trigger of index i, of either unit, with operation f: of most rows this is how
exec and aluOp are written. -/
structure AluRow (c : EngId → Bundle → Env → Instr) (i : Nat) (f : W64 → W64 → W64) : Prop where
  index : i ≤ 11 := by decide
  op : ∀ o t, aluOp i o t = f o t := by intros; rfl
  row : ∀ e b v s, exec (c e b v) s = s.row (fun p => decide (p = 0x210 + i) || decide (p = 0x230 + i)) e b v := by
    intros; rfl

theorem aluOp_clt (o t : W64) : aluOp 10 o t = if o.toInt < t.toInt then 1 else 0 := by
  simp [aluOp, BitVec.slt]

theorem aluOp_cltu (o t : W64) : aluOp 11 o t = if o.toNat < t.toNat then 1 else 0 := by
  simp [aluOp, BitVec.ult]

/-- A trigger of a row is an ALU trigger of the row's index. -/
theorem AluRow.port {c : EngId → Bundle → Env → Instr} {i p : Nat} {f : W64 → W64 → W64} (h : AluRow c i f)
    (hp : p = 0x210 + i ∨ p = 0x230 + i) : AluPort p ∧ p % 16 = i := by
  have := h.index
  unfold AluPort
  omega

/-- The result of a trigger of a row. -/
theorem AluRow.res {c : EngId → Bundle → Env → Instr} {i : Nat} {f : W64 → W64 → W64} (h : AluRow c i f) {m : Mv}
    (hm : m.dst = 0x210 + i ∨ m.dst = 0x230 + i) (q : Ports) :
    aluRes q m = f (if m.dst < 0x230 then q.alu0o else q.alu1o) (m.val.setWidth 64) := by
  rw [aluRes, (h.port hm).2, h.op]

/-- The guard that a trigger of a row names. -/
theorem AluRow.guard {c : EngId → Bundle → Env → Instr} {i : Nat} {f : W64 → W64 → W64} (h : AluRow c i f) {m : Mv}
    (hm : m.dst = 0x210 + i ∨ m.dst = 0x230 + i) : aluGuard m = if 9 ≤ i then m.op % 16 else 0 := by
  rw [aluGuard, (h.port hm).2]

/-- A bundle with one trigger of a row: the first clause of AluResult. -/
theorem AluRow.exec_one {c : EngId → Bundle → Env → Instr} {i : Nat} {f : W64 → W64 → W64} (h : AluRow c i f)
    {s s1 : State} {e : EngId} {b : Bundle} {v : Env} {m : Mv} (hi : Issues s e.val b v s1) (ht : Triggers s1 e.val b m)
    (hm : m.dst = 0x210 + i ∨ m.dst = 0x230 + i) :
    ∃ t, exec (c e b v) s = .next t ∧ BundleFrame s1 t e.val b (if 9 ≤ i then m.op % 16 else 0) ∧
      (t.eng e.val).cr.aflag = (s1.eng e.val).cr.aflag ∧
      (let q := s1.latched e.val b
       let r := f (if m.dst < 0x230 then q.alu0o else q.alu1o) (m.val.setWidth 64)
       (t.eng e.val).ports = (if m.dst < 0x230 then { q with alu0r := r } else { q with alu1r := r }) ∧
         (9 ≤ i → m.op % 16 ≠ 0 → (t.eng e.val).p.getLsbD (m.op % 16) = decide (r = 1))) := by
  obtain ⟨t, hx, hframe, haflag, hports, hguard⟩ := issue_alu hi ht (h.port hm).1
  obtain ⟨pre, post, hl, -⟩ := ht.rest
  have hmem : m ∈ s1.moves e.val b := by rw [hl]; simp
  rw [h.guard hm] at hframe hguard
  rw [aluPut, h.res hm] at hports
  rw [h.res hm] at hguard
  refine ⟨t, ?_, hframe, haflag, hports, fun h9 h0 => ?_⟩
  · rw [h.row, row_of_mem hmem (by simpa using hm), hx]
  · rw [if_pos h9] at hguard
    exact hguard h0

/-- Settles O1: a trigger alone by AluRow.exec_one, two by issue_two_alu in either order of their slots, a reserved OPMOD
bit by decodeCheck_of_opBad. -/
theorem aluResult : Obligations.AluResult := by
  unfold Obligations.AluResult
  intro rows
  have hrows : ∀ row ∈ rows, AluRow row.1 row.2.1 row.2.2 := by
    simp only [rows, List.forall_mem_cons, List.not_mem_nil, false_imp_iff, implies_true, and_true]
    exact ⟨{}, {}, {}, {}, {}, {}, {}, {}, {}, {}, { op := aluOp_clt }, { op := aluOp_cltu }⟩
  refine ⟨fun row hr s s1 e b v m hi ht hm => (hrows row hr).exec_one hi ht hm, ?_, ?_⟩
  · intro row hr row' hr' s s1 e b v m m' l1 l2 l3 hi hm hm' hp hp' hpl hl q g r r' i j
    have h := hrows row hr
    have h' := hrows row' hr'
    have hlow : m.dst < 0x230 := by have := h.index; omega
    have hhigh : ¬ m'.dst < 0x230 := by omega
    have hres : aluRes q m = r := by rw [h.res (.inl hm), if_pos hlow]
    have hres' : aluRes q m' = r' := by rw [h'.res (.inr hm'), if_neg hhigh]
    have hi0 : aluGuard m = i := h.guard (.inl hm)
    have hj0 : aluGuard m' = j := h'.guard (.inr hm')
    have hd := (h.port (.inl hm)).1
    have hd' := (h'.port (.inr hm')).1
    obtain ⟨hput, hput'⟩ := aluPut_two hlow hhigh q q
    rw [← hres, ← hres', ← hi0, ← hj0]
    rcases hl with hl | hl
    · obtain ⟨t, hx, ht⟩ := issue_two_alu hi hd hd' hp hp' hpl hl
      exact ⟨t, hx, ht.only, ht.ports.trans hput, ht.tally, ht.palette, ht.mem, ht.aflag, ht.lower,
        fun h0 _ => ht.upper h0, ht.guards⟩
    · obtain ⟨t, hx, ht⟩ := issue_two_alu hi hd' hd hp' hp hpl hl
      exact ⟨t, hx, ht.only, ht.ports.trans hput', ht.tally, ht.palette, ht.mem, ht.aflag, fun h0 _ => ht.upper h0,
        fun h0 hne => ht.lower h0 hne.symm, fun k hk hk' => ht.guards k hk' hk⟩
  · intro b delay n x hx hd hop
    exact decodeCheck_of_opBad delay hx (AluPort.opBad hd hop)

end Sys2Proof.Machine
end

section
/-! SUPPORT. The exception of a bundle that fails its decode checks and of an opcode byte that the table does not list (R182,
R206, R217, R372): each is the exception that its checks halt with, taken where nothing is due before it. -/

namespace Sys2Proof.Machine

/-! ### The exception a command halts with -/

/-- A command that halts with an exception raises it, whatever state the halt would go back to (R372). -/
theorem raises_halted {s0 s : State} {e : Nat} {ue : List Nat} {x : Exc} {ilen : Nat} :
    Raises (State.halted s0 s e ue ilen (.exc x)) s e ue x ilen := by
  intro hamc himp hirq
  simp only [State.halted, hamc, himp, hirq]

/-- Recording corrected errors changes no engine (R529). -/
@[simp] theorem State.corrected_eng (s : State) (l : List Nat) (k : Nat) : (s.corrected l).eng k = s.eng k := by
  induction l generalizing s with
  | nil => rfl
  | cons a l ih =>
    rw [State.corrected, List.foldl_cons]
    refine (ih _).trans ?_
    split <;> rfl

/-! ### A bundle that fails its decode checks -/

/-- A bundle that is fetched with nothing due before it, and that fails its decode checks, halts with their first exception
(R206, R372). -/
theorem issue_of_undecoded {s s1 : State} {e : Nat} {b : Bundle} {v : Env} {x : Exc} {p : List Byte}
    (hready : (s.eng e).ready = true) (hpriv : (s.eng e).cr.esw.priv = true) (hparity : v.parity ≠ some 5)
    (hamc : (s.eng e).amc = none) (himp : (s.eng e).imp = none) (howes : (s.eng e).owes = false)
    (hfetch : (s.corrected (ceLines v)).fetch e (ueLines v) 16 = (s1, .ok p)) (hbytes : ofBytes p = b.toNat)
    (hamc1 : (s1.eng e).amc = none) (hcheck : decodeCheck b (s.eng e).cr.esw.bp = some x) :
    s.issue e b v = State.halted (s.corrected (ceLines v)) s1 e (ueLines v) 0 (.exc x) := by
  unfold State.issue
  simp only [hready, hpriv, hparity, hamc, hfetch, hbytes, hamc1, himp, howes, hcheck, Bool.not_true, Bool.or_false,
    Bool.false_eq_true, ne_eq, not_true_eq_false, if_false]
  cases (s.eng e).reportPoint b <;> rfl

/-! ### An opcode that the table does not list -/

/-- The first byte of a Curd instruction without a repeat prefix is its opcode (R208). -/
theorem curdBytes_take_one (op imm : Nat) : (curdBytes op imm false).take 1 = [BitVec.ofNat 8 op] := rfl

/-- ILEN of an instruction of unknown length is that of some instruction (R375). -/
theorem State.ilenOpen_range (s : State) : 1 ≤ s.ilenOpen ∧ s.ilenOpen ≤ 5 := by
  unfold State.ilenOpen
  omega

/-- A Curd instruction with nothing due before it goes on to its fetch (R372). -/
theorem curd_of_clear {s : State} {e : Nat} {v : Env} {op imm : Nat} {rep : Bool}
    (hready : (s.eng e).ready = true) (huser : (s.eng e).cr.esw.priv = false) (hparity : v.parity ≠ some 5)
    (hamc : (s.eng e).amc = none) (himp : (s.eng e).imp = none) :
    s.curd e v op imm rep = (s.corrected (ceLines v)).curdGo e v op imm rep := by
  unfold State.curd
  simp only [hready, huser, hparity, hamc, himp, Bool.not_true, Bool.or_false, Bool.false_eq_true, if_false]

/-- A fetched opcode byte that the table does not list halts with Illegal Opcode, the byte in FADDR (R217). -/
theorem curdGo_of_unlisted {s s1 : State} {e : Nat} {v : Env} {op : Byte}
    (hlist : curdLen op.toNat = none)
    (hfetch : s.fetchAt e (ueLines v) (s.eng e).pc.toNat 1 = (s1, .ok [op])) :
    s.curdGo e v op.toNat 0 false =
      State.halted s s1.draw e (ueLines v) s1.ilenOpen (.exc { cls := xOpcode, faddr := op.toNat }) := by
  have hbyte : [op] = (curdBytes op.toNat 0 false).take 1 := by rw [curdBytes_take_one, BitVec.ofNat_toNat, BitVec.setWidth_eq]
  unfold State.curdGo
  simp only [hlist, hfetch, ← hbyte, Bool.toNat_false, Nat.add_zero, ne_eq, not_true_eq_false, if_false]

/-- Settles O27: a failed decode check by issue_of_undecoded, an unlisted opcode by curd_of_clear and curdGo_of_unlisted, both
raised by raises_halted; the gaps between the rows of the table by curdLen's tests. -/
theorem undecodedTraps : Obligations.UndecodedTraps := by
  unfold Obligations.UndecodedTraps
  refine ⟨?_, ?_, ?_⟩
  · intro s s1 e b v x p g hready hpriv hparity hamc himp howes hfetch hbytes hamc1 hcheck
    have hhalt : exec (.bundleMove e b v) s = State.halted (s.corrected (ceLines v)) s1 e.val (ueLines v) 0 (.exc x) :=
      issue_of_undecoded hready hpriv hparity hamc himp howes hfetch hbytes hamc1 hcheck
    rw [hhalt]
    exact raises_halted
  · rintro s s1 e op v p g hlist hready huser hparity hamc himp hfetch rfl
    have hexec : exec (.illegalOpcode e op v) s = s.curd e.val v op.toNat 0 false :=
      if_pos (Option.isNone_iff_eq_none.mpr hlist)
    refine ⟨s1.ilenOpen, s1.ilenOpen_range.1, s1.ilenOpen_range.2, ?_⟩
    rw [hexec, curd_of_clear hready huser hparity hamc himp,
      curdGo_of_unlisted hlist (by rw [State.corrected_eng]; exact hfetch)]
    exact raises_halted
  · intro op hgap
    unfold curdLen
    repeat rw [if_neg (by omega)]

end Sys2Proof.Machine
end

section
/-! SUPPORT. Function-level reset of the PF (R441, R442): what the reset of one function leaves of it, of the commands of Viari
and of the rest, and what the resets of several leave. -/

namespace Sys2Proof.Machine

/-! ### The reset of one function -/

/-- A map whose entries are changed under their numbers holds each entry changed. -/
theorem AMap.find_map {α : Type} (g : Nat × α → Nat × α) (h : α → α) (hg : ∀ p, g p = (p.1, h p.2)) (m : AMap α) (k : Nat) :
    AMap.find (m.map g) k = (m.find k).map h := by
  induction m with
  | nil => rfl
  | cons p m ih =>
    rw [List.map_cons, hg, AMap.find, AMap.find, ih]
    split
    · rfl
    · split <;> rfl

/-- A running command as the resets of the functions fs leave it: one of theirs answers nothing from then on (R441). -/
def Run.mutedBy (fs : List Nat) (r : Run) : Run := { r with mute := r.mute || decide (r.cmd.fn ∈ fs) }

/-- The reset of a function discards its commands that have not started (R441). -/
theorem State.flr_queue (s : State) (f : Nat) (busy : Bool) :
    (s.flr f busy).via.queue = s.via.queue.filter fun c => c.fn ≠ f := rfl

/-- The reset of a function mutes its running commands (R441). -/
theorem State.flr_find_run (s : State) (f : Nat) (busy : Bool) (k : Nat) :
    (s.flr f busy).via.runs.find k = (s.via.runs.find k).map (Run.mutedBy [f]) := by
  refine AMap.find_map _ _ (fun p => ?_) s.via.runs k
  by_cases h : p.2.cmd.fn = f <;> simp [Run.mutedBy, h]

/-- The reset of a function returns its registers to reset (R441). -/
theorem State.flr_fn_self (s : State) (f : Nat) (busy : Bool) : (s.flr f busy).fn f = { flr := busy } :=
  State.fn_modFn_self _ _ _

/-- The reset of a function leaves every other (R441). -/
theorem State.flr_fn_ne (s : State) {f j : Nat} (busy : Bool) (h : j ≠ f) : (s.flr f busy).fn j = s.fn j :=
  State.fn_modFn_ne _ _ h

/-! ### The resets of several functions -/

/-- The functions of a list reset in order, as R442 resets the VFs. -/
def State.flrs (s : State) (fs : List Nat) : State := fs.foldl (fun s f => s.flr f false) s

@[simp] theorem State.flrs_nil (s : State) : s.flrs [] = s := rfl

@[simp] theorem State.flrs_cons (s : State) (f : Nat) (fs : List Nat) : s.flrs (f :: fs) = (s.flr f false).flrs fs := rfl

/-- Muting by several resets is muting by each. -/
theorem Run.mutedBy_cons (f : Nat) (fs : List Nat) : Run.mutedBy fs ∘ Run.mutedBy [f] = Run.mutedBy (f :: fs) := by
  funext r
  simp [Run.mutedBy, Bool.or_assoc]

/-- The resets discard exactly the waiting commands of their functions. -/
theorem State.mem_flrs_queue (s : State) (fs : List Nat) (c : Cmd) :
    c ∈ (s.flrs fs).via.queue ↔ c ∈ s.via.queue ∧ c.fn ∉ fs := by
  induction fs generalizing s with
  | nil => simp
  | cons f fs ih => simp [ih, State.flr_queue, and_assoc]

/-- The resets mute exactly the running commands of their functions. -/
theorem State.flrs_find_run (s : State) (fs : List Nat) (k : Nat) :
    (s.flrs fs).via.runs.find k = (s.via.runs.find k).map (Run.mutedBy fs) := by
  induction fs generalizing s with
  | nil =>
    have hid : Run.mutedBy [] = id := by funext r; simp [Run.mutedBy]
    rw [State.flrs_nil, hid, Option.map_id_fun, id]
  | cons f fs ih => rw [State.flrs_cons, ih, State.flr_find_run, Option.map_map, Run.mutedBy_cons]

/-- A function that the resets do not name stays. -/
theorem State.flrs_fn_not_mem (s : State) {fs : List Nat} {j : Nat} (h : j ∉ fs) : (s.flrs fs).fn j = s.fn j := by
  induction fs generalizing s with
  | nil => rfl
  | cons f fs ih =>
    rw [List.mem_cons, not_or] at h
    rw [State.flrs_cons, ih _ h.2, State.flr_fn_ne _ _ h.1]

/-- A function that the resets name has its registers at reset. -/
theorem State.flrs_fn_mem (s : State) {fs : List Nat} {j : Nat} (h : j ∈ fs) : (s.flrs fs).fn j = {} := by
  induction fs generalizing s with
  | nil => cases h
  | cons f fs ih =>
    rw [State.flrs_cons]
    by_cases hj : j ∈ fs
    · exact ih _ hj
    · obtain rfl : j = f := (List.mem_cons.mp h).resolve_right hj
      rw [State.flrs_fn_not_mem _ hj, State.flr_fn_self]

/-- The resets change the host interface and Viari alone (R441). -/
theorem State.flrs_frame (s : State) (fs : List Nat) : { s.flrs fs with host := s.host, via := s.via } = s := by
  induction fs generalizing s with
  | nil => rfl
  | cons f fs ih => exact congrArg (fun t : State => { t with host := s.host, via := s.via }) (ih (s.flr f false))

/-! ### The reset of the PF -/

/-- The VFs (R418). -/
def vfList : List Nat := [1, 2, 3, 4, 5, 6, 7]

/-- The functions below 8 are the PF and the VFs (R418). -/
theorem mem_functions (f : Nat) : f ∈ 0 :: vfList ↔ f < 8 := by
  simp only [vfList, List.mem_cons, List.not_mem_nil, or_false]
  omega

/-- The device as the reset of the PF leaves it: the PF and then every VF reset, VF Enable 0 (R442). -/
def State.pfReset (s : State) : State :=
  let t := (s.flr 0 true).flrs vfList
  { t with host := { t.host with vfs := 0 } }

/-- A reset of the PF that is there (R442). -/
theorem exec_functionLevelReset_pf {s : State} (h : s.fnHere 0 = true) :
    exec (.functionLevelReset 0) s = .next s.pfReset := by
  have hexec : exec (.functionLevelReset 0) s = if !s.fnHere 0 then .next s else .next s.pfReset := rfl
  rw [hexec, h]
  rfl

/-- Only commands of no function are left waiting. -/
theorem State.mem_pfReset_queue (s : State) (c : Cmd) : c ∈ s.pfReset.via.queue ↔ c ∈ s.via.queue ∧ 8 ≤ c.fn := by
  have hall : c ∈ s.pfReset.via.queue ↔ c ∈ s.via.queue ∧ c.fn ∉ 0 :: vfList :=
    ((s.flr 0 true).mem_flrs_queue vfList c).trans (by simp [State.flr_queue, and_assoc])
  rw [hall, mem_functions, Nat.not_lt]

/-- Every running command of a function is muted. -/
theorem State.pfReset_find_run (s : State) (k : Nat) :
    s.pfReset.via.runs.find k = (s.via.runs.find k).map (Run.mutedBy (0 :: vfList)) := by
  have hvf := (s.flr 0 true).flrs_find_run vfList k
  rwa [State.flr_find_run, Option.map_map, Run.mutedBy_cons] at hvf

/-- Every function's registers are at reset, and the reset of the PF itself runs on (R441). -/
theorem State.pfReset_fn (s : State) {f : Nat} (h : f < 8) : s.pfReset.fn f = { flr := decide (f = 0) } := by
  change ((s.flr 0 true).flrs vfList).fn f = _
  obtain rfl | hvf := List.mem_cons.mp ((mem_functions f).mpr h)
  · exact (State.flrs_fn_not_mem _ (by decide)).trans (s.flr_fn_self 0 true)
  · have hne : f ≠ 0 := by rintro rfl; exact absurd hvf (by decide)
    rw [State.flrs_fn_mem _ hvf, decide_eq_false hne]

/-- The reset of the PF changes the host interface and Viari alone (R441). -/
theorem State.pfReset_frame (s : State) : { s.pfReset with host := s.host, via := s.via } = s :=
  congrArg (fun t : State => { t with host := s.host, via := s.via }) ((s.flr 0 true).flrs_frame vfList)

/-- Settles O40: the row is State.pfReset, whose parts are those of the resets of the PF and of each VF in turn. -/
theorem pfFunctionReset : Obligations.PfFunctionReset := by
  unfold Obligations.PfFunctionReset
  intro s hhere
  refine ⟨s.pfReset, exec_functionLevelReset_pf hhere, rfl, fun f => s.pfReset_fn, fun c => (s.mem_pfReset_queue c).mp, ?_,
    s.pfReset_frame⟩
  intro k r hrun
  rw [State.pfReset_find_run, hrun, Option.map_some, Run.mutedBy, decide_eq_decide.mpr (mem_functions _)]

end Sys2Proof.Machine
end
